-- ==== Sys2Proof/Word.lean ====
section
/-! DEFINITION. The word types of the block (spec/00_scope.md rules R12, R21; spec/30_encoding.md rules R124, R127). -/

namespace Sys2Proof

/-- A word is 32 bits, bit 0 the least significant (rule R12). -/
abbrev Word := BitVec 32

/-- A 2-bit Pauli code: I = 0, X = 1, Z = 2, Y = 3 (rule R21). -/
abbrev Code := BitVec 2

/-- The number of a vector register, 0 to 3 (rules R51, R124). -/
abbrev VNum := BitVec 2

/-- A quadrant of the evolution operator, 0 to 3 (rule R127). -/
abbrev Quadrant := BitVec 2

/-- A byte offset on the register port, `paddr` (rule R81). -/
abbrev Offset := BitVec 12

end Sys2Proof
end

