-- ==== Sys2Proof/Syntax.lean ====
section
/-! DEFINITION. The fifteen commands of spec/opcode_table.json (spec/30_encoding.md rules R122 to R127). -/

namespace Sys2Proof

/-- A command of the block with its operands: `d` is DST, `s` is SRC, `b` is BLK (rules R121, R123). -/
inductive Instr where
  /-- NOP (rule R168). -/
  | nop
  /-- MV: modulo-2 matrix-vector product (rule R181). -/
  | mv (d s : VNum)
  /-- VCLR: clear a vector register (rule R182). -/
  | vclr (d : VNum)
  /-- SHIFTGEN.L: the left shift matrix (rule R202). -/
  | shiftgenL
  /-- SHIFTGEN.R: the right shift matrix (rule R203). -/
  | shiftgenR
  /-- MATCLR: clear the operator memory (rule R224). -/
  | matclr
  /-- OPACC.I: add the identity into a quadrant (rule R227). -/
  | opaccI (b : Quadrant)
  /-- OPACC.HL: add H_left into a quadrant (rule R228). -/
  | opaccHl (b : Quadrant)
  /-- OPACC.HR: add H_right into a quadrant (rule R229). -/
  | opaccHr (b : Quadrant)
  /-- OPACC.VU: add V_up into a quadrant (rule R230). -/
  | opaccVu (b : Quadrant)
  /-- OPACC.VD: add V_down into a quadrant (rule R231). -/
  | opaccVd (b : Quadrant)
  /-- BUILD: construct the evolution operator (rule R232). -/
  | build
  /-- ENCODE: encode a vector register as Pauli codes (rule R251). -/
  | encode (s : VNum)
  /-- STEP: one time step (rule R273). -/
  | step (s : VNum)
  /-- RUN: bounded time steps with the full history (rule R274). -/
  | run (s : VNum)
  deriving DecidableEq, Repr

/-- The assembly name of a vector register, `v0` to `v3` (rule R132). -/
def vectorName (k : VNum) : String := "v" ++ toString k.toNat

/-- The assembly name of a quadrant, `q0` to `q3` (rule R132). -/
def quadrantName (b : Quadrant) : String := "q" ++ toString b.toNat

/-- The assembly spelling of a command; the first operand of `mv` is the destination (rule R132). -/
def Instr.assembly : Instr → String
  | .nop => "nop"
  | .mv d s => "mv " ++ vectorName d ++ ", " ++ vectorName s
  | .vclr d => "vclr " ++ vectorName d
  | .shiftgenL => "shiftgen.l"
  | .shiftgenR => "shiftgen.r"
  | .matclr => "matclr"
  | .opaccI b => "opacc.i " ++ quadrantName b
  | .opaccHl b => "opacc.hl " ++ quadrantName b
  | .opaccHr b => "opacc.hr " ++ quadrantName b
  | .opaccVu b => "opacc.vu " ++ quadrantName b
  | .opaccVd b => "opacc.vd " ++ quadrantName b
  | .build => "build"
  | .encode s => "encode " ++ vectorName s
  | .step s => "step " ++ vectorName s
  | .run s => "run " ++ vectorName s

end Sys2Proof
end

