-- ==== Sys2Proof/WellFormed.lean ====
section
/-! DEFINITION. What a well-formed command is, as a term (`Instr.wf`) and as a word (`wordWf`), from the fields of
spec/30_encoding.md rules R121, R122, R124 to R129. The decoder of Decode.lean is written from the (match, mask)
table of rule R123 instead, so the two can be held against each other. -/

namespace Sys2Proof

/-- Every operand is a number 0 to 3 (rules R124, R127). The operand types have no other value, so every term is
well formed (`Instr.wf_all`). -/
def Instr.wf : Instr → Bool
  | .mv d s => decide (d.toNat < 4) && decide (s.toNat < 4)
  | .vclr d => decide (d.toNat < 4)
  | .opaccI b => decide (b.toNat < 4)
  | .opaccHl b => decide (b.toNat < 4)
  | .opaccHr b => decide (b.toNat < 4)
  | .opaccVu b => decide (b.toNat < 4)
  | .opaccVd b => decide (b.toNat < 4)
  | .encode s => decide (s.toNat < 4)
  | .step s => decide (s.toNat < 4)
  | .run s => decide (s.toNat < 4)
  | .nop => true
  | .shiftgenL => true
  | .shiftgenR => true
  | .matclr => true
  | .build => true

theorem Instr.wf_all (i : Instr) : i.wf = true := by
  cases i <;> simp only [Instr.wf, Bool.and_eq_true, decide_eq_true_eq] <;> omega

/-- The operation codes of rule R122. -/
def knownOpcodes : List (BitVec 8) :=
  [0x00, 0x01, 0x02, 0x10, 0x20, 0x21, 0x22, 0x30, 0x40, 0x41]

/-- Bit 15 and bits [31:18] are 0 (rule R128). -/
def reservedClear (w : Word) : Bool :=
  !w.getLsbD 15 && w.extractLsb' 18 14 == 0

/-- OPC is in the table of rule R122. -/
def opcodeKnown (w : Word) : Bool :=
  knownOpcodes.contains (w.extractLsb' 0 8)

/-- DST is 0 unless OPC is MV or VCLR (rules R122, R123). -/
def dstAllowed (w : Word) : Bool :=
  [0x01, 0x02].contains (w.extractLsb' 0 8) || w.extractLsb' 8 2 == 0

/-- SRC is 0 unless OPC is MV, ENCODE, STEP or RUN (rules R122, R123). -/
def srcAllowed (w : Word) : Bool :=
  [0x01, 0x30, 0x40, 0x41].contains (w.extractLsb' 0 8) || w.extractLsb' 10 2 == 0

/-- SEL is 0 or 1 for OPC 0x10, 0 to 4 for OPC 0x21 and 0 for every other OPC (rules R122, R125, R126). -/
def selAllowed (w : Word) : Bool :=
  let sel := (w.extractLsb' 12 3).toNat
  if w.extractLsb' 0 8 = 0x10#8 then decide (sel ≤ 1)
  else if w.extractLsb' 0 8 = 0x21#8 then decide (sel ≤ 4)
  else sel == 0

/-- BLK is 0 unless OPC is OPACC (rules R122, R123). -/
def blkAllowed (w : Word) : Bool :=
  w.extractLsb' 0 8 == 0x21#8 || w.extractLsb' 16 2 == 0

/-- The words that are one of the fifteen commands; every other word is illegal (rules R129, R130). -/
def wordWf (w : Word) : Bool :=
  reservedClear w && opcodeKnown w && dstAllowed w && srcAllowed w && selAllowed w && blkAllowed w

end Sys2Proof
end

