-- ==== Sys2Proof/Decode.lean ====
section
/-! DEFINITION. The decoder, from the (match, mask) table of spec/30_encoding.md rule R123, and the encoder, from the
words of rule R132. -/

namespace Sys2Proof

/-- One row of rule R123: its fixed bits, which bits they are, and the command read from the free fields. -/
structure Row where
  pattern : Word
  mask : Word
  read : Word → Instr

/-- DST = w[9:8] (rule R131). -/
def dstOf (w : Word) : VNum := w.extractLsb' 8 2

/-- SRC = w[11:10] (rule R131). -/
def srcOf (w : Word) : VNum := w.extractLsb' 10 2

/-- BLK = w[17:16] (rule R131). -/
def blkOf (w : Word) : Quadrant := w.extractLsb' 16 2

/-- The table of rule R123, in its order. -/
def commandTable : List Row :=
  [ ⟨0x00000000, 0xFFFFFFFF, fun _ => .nop⟩,
    ⟨0x00000001, 0xFFFFF0FF, fun w => .mv (dstOf w) (srcOf w)⟩,
    ⟨0x00000002, 0xFFFFFCFF, fun w => .vclr (dstOf w)⟩,
    ⟨0x00000010, 0xFFFFFFFF, fun _ => .shiftgenL⟩,
    ⟨0x00001010, 0xFFFFFFFF, fun _ => .shiftgenR⟩,
    ⟨0x00000020, 0xFFFFFFFF, fun _ => .matclr⟩,
    ⟨0x00000021, 0xFFFCFFFF, fun w => .opaccI (blkOf w)⟩,
    ⟨0x00001021, 0xFFFCFFFF, fun w => .opaccHl (blkOf w)⟩,
    ⟨0x00002021, 0xFFFCFFFF, fun w => .opaccHr (blkOf w)⟩,
    ⟨0x00003021, 0xFFFCFFFF, fun w => .opaccVu (blkOf w)⟩,
    ⟨0x00004021, 0xFFFCFFFF, fun w => .opaccVd (blkOf w)⟩,
    ⟨0x00000022, 0xFFFFFFFF, fun _ => .build⟩,
    ⟨0x00000030, 0xFFFFF3FF, fun w => .encode (srcOf w)⟩,
    ⟨0x00000040, 0xFFFFF3FF, fun w => .step (srcOf w)⟩,
    ⟨0x00000041, 0xFFFFF3FF, fun w => .run (srcOf w)⟩ ]

/-- A word selects a row exactly when `(w AND mask) = match` (rule R123). -/
def Row.selects (r : Row) (w : Word) : Bool := (w &&& r.mask) == r.pattern

/-- `Decode(w)`: the command of the row that `w` selects, none where no row is selected (rule R131). -/
def decode (w : Word) : Option Instr :=
  (commandTable.find? (·.selects w)).map (·.read w)

/-- A field of two bits at bit `lo` of a word that is 0 elsewhere (rule R132). -/
def fieldAt (lo : Nat) (k : BitVec 2) : Word := k.setWidth 32 <<< lo

/-- The word of a command (rule R132). -/
def encode : Instr → Word
  | .nop => 0x00000000
  | .mv d s => 0x00000001 ||| fieldAt 8 d ||| fieldAt 10 s
  | .vclr d => 0x00000002 ||| fieldAt 8 d
  | .shiftgenL => 0x00000010
  | .shiftgenR => 0x00001010
  | .matclr => 0x00000020
  | .opaccI b => 0x00000021 ||| fieldAt 16 b
  | .opaccHl b => 0x00001021 ||| fieldAt 16 b
  | .opaccHr b => 0x00002021 ||| fieldAt 16 b
  | .opaccVu b => 0x00003021 ||| fieldAt 16 b
  | .opaccVd b => 0x00004021 ||| fieldAt 16 b
  | .build => 0x00000022
  | .encode s => 0x00000030 ||| fieldAt 10 s
  | .step s => 0x00000040 ||| fieldAt 10 s
  | .run s => 0x00000041 ||| fieldAt 10 s

/-- The command of the `nbits` low bits of `w`, numbered as spec/opcode_table.json numbers them; every bit above them
is 0. A command is one 32-bit word (rule R120), so bits beyond a word give no command. -/
def decodeTableWord (nbits w : Nat) : Option Instr :=
  if w % 2 ^ nbits < 2 ^ 32 then decode (BitVec.ofNat 32 (w % 2 ^ nbits)) else none

end Sys2Proof
end

