-- ==== Sys2Proof/Config.lean ====
section
/-! DEFINITION. What an implementation fixes (spec/00_scope.md rules R7 to R10) and the free values the spec leaves
open (spec/93_implementation_defined.md U2, U3, U14). -/

namespace Sys2Proof

/-- The implementation parameters: `nmax` is NMAX (rule R7), `hdepth` is HDEPTH (rule R10). They are data of the
machine, so that a statement about every state is one about every configuration. -/
structure Config where
  nmax : Nat
  hdepth : Nat
  deriving DecidableEq, Repr

/-- The ranges the spec gives the parameters (rules R7, R10). -/
abbrev Config.ok (c : Config) : Prop :=
  1 ≤ c.nmax ∧ c.nmax ≤ 32767 ∧ 1 ≤ c.hdepth ∧ c.hdepth ≤ 65535

/-- DMAX = 2*NMAX^2 (rule R8). -/
def Config.dmax (c : Config) : Nat := 2 * (c.nmax * c.nmax)

/-- CMAX = NMAX^2 (rule R9). -/
def Config.cmax (c : Config) : Nat := c.nmax * c.nmax

/-- The reference configuration of rules R7 and R10: NMAX = 8, HDEPTH = 16. -/
def Config.reference : Config := { nmax := 8, hdepth := 16 }

/-- Which arbitrary contents of rule R342 a memory holds where nothing has been written since reset number `n`:
those of MAT, of vector register `k`, or of history row `r`. -/
inductive Draw where
  | mat (n : Nat)
  | vreg (n : Nat) (k : VNum)
  | hist (n r : Nat)
  deriving DecidableEq, Repr

/-- FREE VALUE (rule R342, U2, log 3): the bit that MAT or a vector register holds at an element after a reset. -/
opaque Config.resetBit : Draw → Nat → Bool

/-- FREE VALUE (rule R342, U2, log 3): the code that a history row holds at a cell after a reset. -/
opaque Config.resetCode : Draw → Nat → Code

/-- FREE VALUE (rule R90, U3, log 5): what the `n`-th drawn busy read returns. -/
opaque Config.busyRead : Nat → Word

end Sys2Proof
end

