-- ==== Sys2Proof/Machine/State.lean ====
section
/-! DEFINITION. The state of the block as plain data (spec/10_state.md rule R30), what the outside does to it
(spec/20_memory.md rule R81), why a step can stop, and the state after reset (rules R57, R342). -/

namespace Sys2Proof.Machine

open Sys2Proof

/-- A memory of bits or codes. `cells` lists elements by address, addresses strictly rising. `draw = none`: an
unlisted element is zero, and no zero is listed. `draw = some d`: the memory still holds the arbitrary contents `d` of
its last reset (rule R342) at every unlisted element, and every element written since is listed (log 4). -/
structure Memory (α : Type) where
  draw : Option Draw
  cells : List (Nat × α)
  deriving DecidableEq, Repr

/-- Four things, one for each vector register number (rule R51). -/
structure Quad (α : Type) where
  r0 : α
  r1 : α
  r2 : α
  r3 : α
  deriving DecidableEq, Repr

/-- What the outside does next (rules R22, R81, R103): one bus transfer, the instant at which the engine's step falls,
or a level driven on rst_n. -/
inductive Event where
  /-- A host read at `paddr` (rule R90). -/
  | read (paddr : Offset)
  /-- A host write of `pwdata` at `paddr` (rule R91). -/
  | write (paddr : Offset) (pwdata : Word)
  /-- The engine's turn between two host accesses: it steps if it has a step (rules R103, R163). -/
  | engine
  /-- rst_n is driven to `level`: `false` is reset (rule R340). -/
  | reset (level : Bool)
  deriving DecidableEq, Repr

/-- The state of the block. The last five fields are not registers: `rstN` is the level of the reset input, and
`inputs`, `reads`, `draws`, `resets` are the model's own (logs 3, 5, 6, 9). -/
structure State where
  /-- NMAX and HDEPTH (rules R7, R10); no step changes them. -/
  cfg : Config
  /-- CTRL.IE (rule R35). -/
  ie : Bool
  /-- STATUS.BUSY (rules R36, R55). -/
  busy : Bool
  /-- STATUS.DONE (rule R37). -/
  done : Bool
  /-- STATUS.OVR (rule R39). -/
  ovr : Bool
  /-- STATUS.RANGE (rule R40). -/
  range : Bool
  /-- STATUS.ERRCODE (rule R41). -/
  errcode : BitVec 4
  /-- LASTCMD (rule R42). -/
  lastcmd : Word
  /-- PEND, the word of the command in flight (rule R55). -/
  pend : Word
  /-- NREG, the grid size N, read as a signed integer (rule R43). -/
  nreg : Word
  /-- TREG, the step count T, read as a signed integer (rule R44). -/
  treg : Word
  /-- MROWS (rule R45). -/
  mrows : Word
  /-- MCOLS (rule R45). -/
  mcols : Word
  /-- MATROW (rule R46). -/
  matrow : Word
  /-- MATCOL (rule R46). -/
  matcol : Word
  /-- VSEL (rule R47). -/
  vsel : VNum
  /-- VIDX (rule R48). -/
  vidx : Word
  /-- VLEN[0..3] (rule R49). -/
  vlen : Quad Word
  /-- HROW (rule R53). -/
  hrow : Word
  /-- HIDX (rule R53). -/
  hidx : Word
  /-- HROWS (rule R54). -/
  hrows : Word
  /-- HM (rule R54). -/
  hm : Word
  /-- MAT, element (i, j) at address i*DMAX + j (rule R50). -/
  mat : Memory Bool
  /-- VREG[0..3] (rule R51). -/
  vreg : Quad (Memory Bool)
  /-- HIST, a list of HDEPTH rows of CMAX codes (rule R52). -/
  hist : List (Memory Code)
  /-- The level of rst_n (rules R81, R340). -/
  rstN : Bool
  /-- What the outside does next, oldest first. -/
  inputs : List Event
  /-- The values host reads have returned (prdata, rule R23), newest first. -/
  reads : List Word
  /-- How many busy reads have returned a free value (rule R90). -/
  draws : Nat
  /-- How many resets there have been; it numbers the draws of rule R342. -/
  resets : Nat
  deriving DecidableEq, Repr

/-- Why the machine stops with a fault. There is no constructor: the block never traps, aborts or signals a bus error
(rule R300), and no behaviour of it is a fault or stuck state (spec/93_implementation_defined.md). -/
inductive Fault where
  deriving DecidableEq, Repr

/-- Why the model gives no meaning. -/
inductive Refusal where
  /-- Raised only by an arm of `exec` for a command without a meaning; no arm raises it. Safe: the model stops. -/
  | notModelled (mnemonic : String)
  deriving DecidableEq, Repr

/-- The state right after reset number `n` of a block with parameters `c`: registers as in rule R57, memories holding
the arbitrary contents of rule R342, rst_n high, and nothing asked of it yet. -/
def State.resetOf (c : Config) (n : Nat) : State where
  cfg := c
  ie := false
  busy := false
  done := false
  ovr := false
  range := false
  errcode := 0
  lastcmd := 0
  pend := 0
  nreg := 0
  treg := 0
  mrows := 0
  mcols := 0
  matrow := 0
  matcol := 0
  vsel := 0
  vidx := 0
  vlen := { r0 := 0, r1 := 0, r2 := 0, r3 := 0 }
  hrow := 0
  hidx := 0
  hrows := 0
  hm := 0
  mat := { draw := some (.mat n), cells := [] }
  vreg :=
    { r0 := { draw := some (.vreg n 0), cells := [] }
      r1 := { draw := some (.vreg n 1), cells := [] }
      r2 := { draw := some (.vreg n 2), cells := [] }
      r3 := { draw := some (.vreg n 3), cells := [] } }
  hist := (List.range c.hdepth).map fun r => { draw := some (.hist n r), cells := [] }
  rstN := true
  inputs := []
  reads := []
  draws := 0
  resets := n

/-- The machine right after reset, in the reference configuration of rules R7 and R10 (log 1). -/
def State.reset : State := State.resetOf Config.reference 0

end Sys2Proof.Machine
end

