-- ==== Sys2Proof/Machine/Flags.lean ====
section
/-! DEFINITION. The result codes and every STATUS and interrupt computation (spec/10_state.md rules R36 to R41,
spec/60_exceptions.md rules R301, R310). The block has no arithmetic flags (rule R56). -/

namespace Sys2Proof.Machine

open Sys2Proof

/-- The result codes of rule R301; SYMBOL has no raiser (rule R304). -/
inductive ErrCode where
  | none
  | dim
  | size
  | symbol
  | parity
  | capacity
  | illegal
  deriving DecidableEq, Repr

/-- The value of a result code in STATUS.ERRCODE (rule R301). -/
def ErrCode.bits : ErrCode → BitVec 4
  | .none => 0
  | .dim => 1
  | .size => 2
  | .symbol => 3
  | .parity => 4
  | .capacity => 5
  | .illegal => 6

/-- STATUS.ERR: 1 exactly when ERRCODE is not 0; it has no storage of its own (rule R38). -/
def errFlag (s : State) : Bool := s.errcode != 0

/-- A word with bit `i` set to `b` and 0 elsewhere. -/
def flagAt (i : Nat) (b : Bool) : Word := if b then 1#32 <<< i else 0

/-- What a read of STATUS returns: `{20'b0, ERRCODE, 3'b0, RANGE, OVR, ERR, DONE, BUSY}` (rule R90). -/
def statusWord (s : State) : Word :=
  flagAt 0 s.busy ||| flagAt 1 s.done ||| flagAt 2 (errFlag s) ||| flagAt 3 s.ovr ||| flagAt 4 s.range
    ||| (s.errcode.setWidth 32 <<< 8)

/-- A host write of STATUS: bits 1, 3 and 4 clear DONE, OVR and RANGE; every other bit is ignored (rule R91). -/
def writeStatus (v : Word) (s : State) : State :=
  { s with
    done := s.done && !v.getLsbD 1
    ovr := s.ovr && !v.getLsbD 3
    range := s.range && !v.getLsbD 4 }

/-- The irq output: a level, `STATUS.DONE AND CTRL.IE` (rule R310). -/
def irq (s : State) : Bool := s.done && s.ie

/-- The pslverr output: the block never signals a bus error (rule R81). -/
def pslverr (_s : State) : Bool := false

end Sys2Proof.Machine
end

