-- ==== Sys2Proof/Machine/Grid.lean ====
section
/-! DEFINITION. The GF(2) matrices and vectors of the spec as functions of their indices: products, cyclic shifts,
Kronecker products, blocks, the grid operators and the evolution operator (spec/00_scope.md rules R14 to R21,
spec/42_shiftgen.md rule R200, spec/43_builder.md rules R220, R225, R226). -/

namespace Sys2Proof.Machine

open Sys2Proof

/-- A matrix over GF(2), entry (i, j) at `M i j` (rule R14). -/
abbrev GfMat := Nat → Nat → Bool

/-- A vector over GF(2) (rule R14). -/
abbrev GfVec := Nat → Bool

/-- The XOR over j in [0, n) of `f j`; an empty XOR is 0 (rule R18). -/
def xorSum : Nat → (Nat → Bool) → Bool
  | 0, _ => false
  | n + 1, f => xorSum n f ^^ f n

/-- `M·v` for a matrix with n columns (rule R18). -/
def mulVec (n : Nat) (M : GfMat) (v : GfVec) : GfVec :=
  fun i => xorSum n fun j => M i j && v j

/-- `a mod N`: the r with 0 ≤ r < N and a − r divisible by N (rule R15). -/
def cyclic (a : Int) (N : Nat) : Nat := (a % (N : Int)).toNat

/-- The identity matrix (rule R20). -/
def identityMat : GfMat := fun i j => i == j

/-- The zero matrix (rule R20). -/
def zeroMat : GfMat := fun _ _ => false

/-- The cyclic left shift L of size N (rule R200). -/
def shiftLeft (N : Nat) : GfMat := fun i j => j == cyclic ((i : Int) - 1) N

/-- The cyclic right shift R of size N (rule R200). -/
def shiftRight (N : Nat) : GfMat := fun i j => j == cyclic ((i : Int) + 1) N

/-- `P ⊗ Q` for an s×t matrix Q (rule R19). -/
def kron (s t : Nat) (P Q : GfMat) : GfMat :=
  fun a b => P (a / s) (b / t) && Q (a % s) (b % t)

/-- The mod-2 entrywise sum (rules R14, R222). -/
def addMat (P Q : GfMat) : GfMat := fun i j => P i j ^^ Q i j

/-- `[[P, Q],[S, U]]` with four k×k blocks (rule R20). -/
def blockMat (k : Nat) (P Q S U : GfMat) : GfMat := fun i j =>
  if i < k then (if j < k then P i j else Q i (j - k))
  else (if j < k then S (i - k) j else U (i - k) (j - k))

/-- The five operators OPACC can add (rules R126, R220). -/
inductive GridOp where
  | ident
  | hLeft
  | hRight
  | vUp
  | vDown
  deriving DecidableEq, Repr

/-- The N²×N² matrix of a grid operator (rule R220). -/
def gridMat (N : Nat) : GridOp → GfMat
  | .ident => identityMat
  | .hLeft => kron N N identityMat (shiftLeft N)
  | .hRight => kron N N identityMat (shiftRight N)
  | .vUp => kron N N (shiftLeft N) identityMat
  | .vDown => kron N N (shiftRight N) identityMat

/-- `A = (H_left + H_right + V_up + V_down + I_K) mod 2` (rule R225). -/
def plusMat (N : Nat) : GfMat :=
  addMat (addMat (addMat (addMat (gridMat N .hLeft) (gridMat N .hRight)) (gridMat N .vUp)) (gridMat N .vDown))
    (gridMat N .ident)

/-- `T = [[A, I_K],[I_K, 0]]` with K = N² (rule R226). -/
def evolutionMat (N : Nat) : GfMat :=
  blockMat (N * N) (plusMat N) identityMat identityMat zeroMat

/-- `code(x, z) = x + 2·z` (rule R21). -/
def pauliCode (x z : Bool) : Code := BitVec.ofNat 2 (x.toNat + 2 * z.toNat)

/-- Element i of a list of bits, 0 past its end (rules R180, R273: "y[i] if i < D else 0"). -/
def listBit (S : List Bool) : GfVec := fun i => S.getD i false

/-- The first D elements of `M·S`, for a D-bit vector S (rule R272). -/
def applyMat (D : Nat) (M : GfMat) (S : List Bool) : List Bool :=
  (List.range D).map (mulVec D M (listBit S))

/-- The state after k applications of the D×D matrix M to S (rule R277: `M^k·S0`). -/
def applyTimes (D : Nat) (M : GfMat) : Nat → List Bool → List Bool
  | 0, S => S
  | k + 1, S => applyTimes D M k (applyMat D M S)

/-- The codes of the M cells of a 2M-bit vector: cell p has x bit p and z bit M + p (rules R17, R250). -/
def cellCodes (M : Nat) (v : GfVec) : List Code :=
  (List.range M).map fun p => pauliCode (v p) (v (M + p))

end Sys2Proof.Machine
end

