-- ==== Sys2Proof/Machine/Ops.lean ====
section
/-! DEFINITION. The named operations over memories, registers and the command lifecycle: reading and writing one
element, clearing and loading a whole memory, issuing and completing a command, and raising an error
(spec/40_common.md rules R161 to R165, spec/41_mv.md rule R180, spec/43_builder.md rule R222, spec/44_codec.md
rule R250, spec/70_reset_and_hazards.md rules R340 to R343). -/

namespace Sys2Proof.Machine

open Sys2Proof

/-! ## Memories -/

/-- The listed element at an address. -/
def findCell {α : Type} (a : Nat) : List (Nat × α) → Option α
  | [] => none
  | (b, v) :: t => if b = a then some v else findCell a t

/-- List the element `v` at address `a`, in place of the one listed there. -/
def putCell {α : Type} (a : Nat) (v : α) : List (Nat × α) → List (Nat × α)
  | [] => [(a, v)]
  | (b, w) :: t => if a < b then (a, v) :: (b, w) :: t else if a = b then (a, v) :: t else (b, w) :: putCell a v t

/-- List nothing at address `a`. -/
def dropCell {α : Type} (a : Nat) : List (Nat × α) → List (Nat × α)
  | [] => []
  | (b, w) :: t => if a = b then dropCell a t else (b, w) :: dropCell a t

/-- The element at an address. What an unlisted address reads as is said here and nowhere else: zero where the memory
has been defined as a whole since reset, the arbitrary contents of rule R342 where it has not. -/
def Memory.read {α : Type} (zero : α) (free : Draw → Nat → α) (m : Memory α) (a : Nat) : α :=
  match findCell a m.cells with
  | some v => v
  | none =>
    match m.draw with
    | none => zero
    | some d => free d a

/-- Write one element. -/
def Memory.write {α : Type} [DecidableEq α] (zero : α) (a : Nat) (v : α) (m : Memory α) : Memory α :=
  if m.draw = none ∧ v = zero then { m with cells := dropCell a m.cells } else { m with cells := putCell a v m.cells }

/-- Write `f a` at every address `a` of a list. -/
def Memory.writeAll {α : Type} [DecidableEq α] (zero : α) (as : List Nat) (f : Nat → α) (m : Memory α) : Memory α :=
  as.foldr (fun a m => m.write zero a (f a)) m

/-- The memory whose every element is zero. -/
def Memory.cleared {α : Type} : Memory α := { draw := none, cells := [] }

/-- The elements of a list that are not zero, addressed from `a`. -/
def listCells {α : Type} [DecidableEq α] (zero : α) : Nat → List α → List (Nat × α)
  | _, [] => []
  | a, v :: t => if v = zero then listCells zero (a + 1) t else (a, v) :: listCells zero (a + 1) t

/-- The memory that holds a list from address 0 and zero from its end on. -/
def Memory.ofList {α : Type} [DecidableEq α] (zero : α) (l : List α) : Memory α :=
  { draw := none, cells := listCells zero 0 l }

/-- The canonical form of a memory of `size` elements: addresses strictly rising and below `size`, and no zero listed
where an unlisted element reads as zero. -/
abbrev Memory.wf {α : Type} [DecidableEq α] (zero : α) (size : Nat) (m : Memory α) : Prop :=
  m.cells.Pairwise (fun p q => p.1 < q.1) ∧ (∀ p ∈ m.cells, p.1 < size) ∧ (m.draw = none → ∀ p ∈ m.cells, p.2 ≠ zero)

/-- A bit of MAT or of a vector register. -/
def Memory.bit (m : Memory Bool) (a : Nat) : Bool := m.read false Config.resetBit a

/-- A code of a history row. -/
def Memory.code (m : Memory Code) (a : Nat) : Code := m.read 0 Config.resetCode a

/-! ## Vector registers -/

/-- The thing of vector register `k`. -/
def Quad.get {α : Type} (q : Quad α) (k : VNum) : α :=
  if k = 0 then q.r0 else if k = 1 then q.r1 else if k = 2 then q.r2 else q.r3

/-- Replace the thing of vector register `k`. -/
def Quad.set {α : Type} (q : Quad α) (k : VNum) (x : α) : Quad α :=
  if k = 0 then { q with r0 := x }
  else if k = 1 then { q with r1 := x }
  else if k = 2 then { q with r2 := x }
  else { q with r3 := x }

/-! ## Elements as the spec writes them -/

/-- `MAT[i][j]` (rule R50). -/
def matBit (s : State) (i j : Nat) : Bool := s.mat.bit (i * s.cfg.dmax + j)

/-- `VREG[k][i]` (rule R51). -/
def vregBit (s : State) (k : VNum) (i : Nat) : Bool := (s.vreg.get k).bit i

/-- `VLEN[k]` (rule R49). -/
def vlenOf (s : State) (k : VNum) : Word := s.vlen.get k

/-- `HIST[r][p]` (rule R52). -/
def histCode (s : State) (r p : Nat) : Code :=
  match s.hist[r]? with
  | some row => row.code p
  | none => 0

/-! ## Completion and errors -/

/-- `Complete(code)` (rule R164). -/
def complete (code : ErrCode) (s : State) : State :=
  { s with errcode := code.bits, done := true, busy := false }

/-- The first check that fails, in the order of rule R308. -/
def firstError : List (Bool × ErrCode) → Option ErrCode
  | [] => none
  | (failed, code) :: rest => if failed then some code else firstError rest

/-- The one way a command runs: its checks in order, then either all its writes (`written`, code 0) or, by
`raise Error(code)`, none of them; then completion (rules R163, R164, R165). -/
def attempt (checks : List (Bool × ErrCode)) (written s : State) : Host.Outcome State Fault Refusal :=
  match firstError checks with
  | some code => .next (complete code s)
  | none => .next (complete .none written)

/-- `IssueCommand(v)` (rule R161). -/
def issueCommand (v : Word) (s : State) : State :=
  { s with lastcmd := v, pend := v, errcode := 0, done := false, busy := true }

/-! ## Whole-memory writes -/

/-- `VREG[d]` holds the list `y` and zeros from its end on (rules R180, R182, R273, R274). -/
def setVreg (d : VNum) (y : List Bool) (s : State) : State :=
  { s with vreg := s.vreg.set d (Memory.ofList false y) }

/-- `WriteVec(d, y, m)` for a list `y` of length m (rule R180). -/
def writeVec (d : VNum) (y : List Bool) (s : State) : State :=
  { setVreg d y s with vlen := s.vlen.set d (BitVec.ofNat 32 y.length) }

/-- The addresses of the entries of MAT, in rows [ro, ro+K) and columns [co, co+K), at which the K×K matrix M has
a 1. -/
def onesOf (dmax ro co K : Nat) (M : GfMat) : List Nat :=
  (List.range K).flatMap fun p => ((List.range K).filter (M p)).map fun q => (ro + p) * dmax + (co + q)

/-- MAT becomes the n×n matrix M in its top-left corner and 0 elsewhere (rules R202, R203, R232). -/
def loadMat (n : Nat) (M : GfMat) (s : State) : State :=
  { s with mat := Memory.cleared.writeAll false (onesOf s.cfg.dmax 0 0 n M) fun _ => true }

/-- MROWS and MCOLS become m and n (rules R202, R203, R232). -/
def setDims (m n : Nat) (s : State) : State :=
  { s with mrows := BitVec.ofNat 32 m, mcols := BitVec.ofNat 32 n }

/-- `Acc(OP, b)` at row offset ro and column offset co: MAT is XORed with OP in that quadrant (rule R222). Entries at
which OP is 0 are XORed with 0 and so are not visited. -/
def accumulate (ro co K : Nat) (op : GfMat) (s : State) : State :=
  { s with mat := s.mat.writeAll false (onesOf s.cfg.dmax ro co K op) fun a => !s.mat.bit a }

/-- The history row that `WriteCodes` writes: the codes of M cells, then zeros (rule R250). -/
def codesRow (M : Nat) (S : List Bool) : Memory Code := Memory.ofList 0 (cellCodes M (listBit S))

/-- `WriteCodes(r, S, M)` on the list of history rows (rule R250). -/
def writeCodes (r M : Nat) (S : List Bool) (rows : List (Memory Code)) : List (Memory Code) :=
  rows.set r (codesRow M S)

/-- HROWS and HM (rule R54). -/
def setExtent (rows m : Nat) (s : State) : State :=
  { s with hrows := BitVec.ofNat 32 rows, hm := BitVec.ofNat 32 m }

/-! ## Reset -/

/-- rst_n is driven to a level (rules R340, R343). Low: every register takes its reset value, the memories take fresh
arbitrary contents and a command in flight is abandoned. High: reset has ended. -/
def driveReset (level : Bool) (s : State) : State :=
  if level then { s with rstN := true }
  else
    { State.resetOf s.cfg (s.resets + 1) with
      rstN := false, inputs := s.inputs, reads := s.reads, draws := s.draws }

end Sys2Proof.Machine
end

