-- ==== Sys2Proof/Machine/Operands.lean ====
section
/-! DEFINITION. What a command or an access reads: the numbers N, T, K, D and lengths with their checks
(spec/40_common.md rule R167, spec/45_driver.md rules R270, R271), vector operands, quadrants (spec/30_encoding.md
rule R127), and the register map (spec/20_memory.md rules R83, R84). -/

namespace Sys2Proof.Machine

open Sys2Proof

/-! ## Sizes -/

/-- N, as CheckSizeN and CheckCapN let it through: NREG as a signed integer (rules R43, R167). -/
def gridSize (s : State) : Nat := s.nreg.toInt.toNat

/-- T: TREG as a signed integer (rules R44, R270). -/
def stepCount (s : State) : Nat := s.treg.toInt.toNat

/-- K = N·N, the number of cells (rule R167). -/
def cellCount (s : State) : Nat := gridSize s * gridSize s

/-- D = 2·K, the length of a state vector (rules R17, R167). -/
def stateLen (s : State) : Nat := 2 * cellCount s

/-- CheckSizeN: NREG ≤ 0 raises SIZE (rule R167). -/
def checkSizeN (s : State) : Bool × ErrCode := (decide (s.nreg.toInt ≤ 0), .size)

/-- CheckCapN: NREG > NMAX raises CAPACITY (rule R167). -/
def checkCapN (s : State) : Bool × ErrCode := (decide (s.nreg.toInt > (s.cfg.nmax : Int)), .capacity)

/-- CheckSizeT: TREG < 0 raises SIZE (rule R270). -/
def checkSizeT (s : State) : Bool × ErrCode := (decide (s.treg.toInt < 0), .size)

/-- CheckCapT: TREG + 1 > HDEPTH raises CAPACITY (rule R270). -/
def checkCapT (s : State) : Bool × ErrCode := (decide (s.treg.toInt + 1 > (s.cfg.hdepth : Int)), .capacity)

/-- CheckDimsD: MROWS, MCOLS or VLEN[k] other than D raises DIM (rule R271). -/
def checkDims (k : VNum) (s : State) : Bool × ErrCode :=
  (decide (s.mrows.toNat ≠ stateLen s ∨ s.mcols.toNat ≠ stateLen s ∨ (vlenOf s k).toNat ≠ stateLen s), .dim)

/-- A number beyond DMAX raises CAPACITY (rules R181, R251). -/
def checkDmax (n : Nat) (s : State) : Bool × ErrCode := (decide (n > s.cfg.dmax), .capacity)

/-- The checks that SHIFTGEN, OPACC and BUILD make (rules R167, R308). -/
def gridChecks (s : State) : List (Bool × ErrCode) := [checkSizeN s, checkCapN s]

/-! ## Vector and quadrant operands -/

/-- `VREG[k][0..n)` (rules R13, R274). -/
def vectorList (s : State) (k : VNum) (n : Nat) : List Bool := (List.range n).map (vregBit s k)

/-- The row offset of a quadrant (rule R127). -/
def rowOffset (b : Quadrant) (K : Nat) : Nat := if b = 2 ∨ b = 3 then K else 0

/-- The column offset of a quadrant (rule R127). -/
def colOffset (b : Quadrant) (K : Nat) : Nat := if b = 1 ∨ b = 3 then K else 0

/-! ## The register map -/

/-- The registers of rule R84; `reserved` stands for every offset the map leaves reserved (rule R85). -/
inductive Reg where
  | id | param | ctrl | status | cmd | nreg | treg | mrows | mcols
  | matrow | matcol | matelem | matword
  | vsel | vidx | velem | vword | vlen
  | hrow | hidx | hcode | hword | hrows | hm
  | reserved
  deriving DecidableEq, Repr

/-- The map of rule R84. -/
def registerMap : List (Nat × Reg) :=
  [ (0x000, .id), (0x004, .param), (0x008, .ctrl), (0x00C, .status), (0x010, .cmd), (0x014, .nreg), (0x018, .treg),
    (0x01C, .mrows), (0x020, .mcols),
    (0x030, .matrow), (0x034, .matcol), (0x038, .matelem), (0x03C, .matword),
    (0x040, .vsel), (0x044, .vidx), (0x048, .velem), (0x04C, .vword), (0x050, .vlen),
    (0x060, .hrow), (0x064, .hidx), (0x068, .hcode), (0x06C, .hword), (0x070, .hrows), (0x074, .hm) ]

/-- The register an access addresses: the one at word offset `paddr[11:2]`; `paddr[1:0]` are ignored (rule R83). -/
def regAt (paddr : Offset) : Reg :=
  (findCell (4 * (paddr.extractLsb' 2 10).toNat) registerMap).getD .reserved

/-- The registers a read returns the value of while BUSY = 1 (rule R90). -/
def readableBusy : Reg → Bool
  | .id => true
  | .param => true
  | .ctrl => true
  | .status => true
  | _ => false

/-- The registers a write takes effect on while BUSY = 1 (rule R91). -/
def writableBusy : Reg → Bool
  | .ctrl => true
  | .status => true
  | _ => false

/-- The offset in the register window of a bus address, for a window at `base` (rules R11, R80); none outside the
4 KiB window. -/
def busOffset (base addr : Nat) : Option Offset :=
  if base ≤ addr ∧ addr < base + 4096 then some (BitVec.ofNat 12 (addr - base)) else none

/-- Byte lane `b` of a word, for a platform that maps the port onto a byte-addressed bus: bits [8b+7 : 8b]
(rule R87). -/
def byteLane (w : Word) (b : Nat) : BitVec 8 := w.extractLsb' (8 * b) 8

/-! ## Words of elements -/

/-- The word whose bit j, for j < n, is `f j`. -/
def packBits : Nat → (Nat → Bool) → Word
  | 0, _ => 0
  | n + 1, f => packBits n f ||| flagAt n (f n)

/-- The first element of the word window of 32 elements at an index: 32·(index >> 5) (rules R93, R95). -/
def wordBase (index : Word) : Nat := 32 * (index.toNat / 32)

/-- The first cell of the word window of 16 codes at an index: 16·(index >> 4) (rule R98). -/
def codeBase (index : Word) : Nat := 16 * (index.toNat / 16)

end Sys2Proof.Machine
end

