-- ==== Sys2Proof/Machine/Builder.lean ====
section
/-! DEFINITION. The evolution-operator builder and the sparse operator accumulator: MATCLR, OPACC.* and BUILD
(spec/43_builder.md). -/

namespace Sys2Proof.Machine

open Sys2Proof

/-- MATCLR: every bit of MAT ← 0 (rule R224). -/
def execMatclr (s : State) : Host.Outcome State Fault Refusal :=
  attempt [] { s with mat := Memory.cleared } s

/-- What the five OPACC commands share: a grid operator is XORed into quadrant b (rules R222, R227 to R231). -/
def accumulateGrid (op : GridOp) (b : Quadrant) (s : State) : State :=
  accumulate (rowOffset b (cellCount s)) (colOffset b (cellCount s)) (cellCount s) (gridMat (gridSize s) op) s

/-- OPACC.I (rule R227). -/
def execOpaccI (b : Quadrant) (s : State) : Host.Outcome State Fault Refusal :=
  attempt (gridChecks s) (accumulateGrid .ident b s) s

/-- OPACC.HL (rule R228). -/
def execOpaccHl (b : Quadrant) (s : State) : Host.Outcome State Fault Refusal :=
  attempt (gridChecks s) (accumulateGrid .hLeft b s) s

/-- OPACC.HR (rule R229). -/
def execOpaccHr (b : Quadrant) (s : State) : Host.Outcome State Fault Refusal :=
  attempt (gridChecks s) (accumulateGrid .hRight b s) s

/-- OPACC.VU (rule R230). -/
def execOpaccVu (b : Quadrant) (s : State) : Host.Outcome State Fault Refusal :=
  attempt (gridChecks s) (accumulateGrid .vUp b s) s

/-- OPACC.VD (rule R231). -/
def execOpaccVd (b : Quadrant) (s : State) : Host.Outcome State Fault Refusal :=
  attempt (gridChecks s) (accumulateGrid .vDown b s) s

/-- BUILD: MAT ← T(N), MROWS = MCOLS = 2K (rule R232). -/
def execBuild (s : State) : Host.Outcome State Fault Refusal :=
  attempt (gridChecks s) (setDims (stateLen s) (stateLen s) (loadMat (stateLen s) (evolutionMat (gridSize s)) s)) s

end Sys2Proof.Machine
end

