-- ==== Sys2Proof/Machine/Codec.lean ====
section
/-! DEFINITION. The state codec: ENCODE (spec/44_codec.md). -/

namespace Sys2Proof.Machine

open Sys2Proof

/-- ENCODE: HIST row 0 ← the codes of VREG[k], HROWS ← 1, HM ← VLEN[k]/2 (rule R251). -/
def execEncode (k : VNum) (s : State) : Host.Outcome State Fault Refusal :=
  let len := (vlenOf s k).toNat
  attempt [checkDmax len s, (decide (len % 2 = 1), .parity)]
    (setExtent 1 (len / 2) { s with hist := writeCodes 0 (len / 2) (vectorList s k len) s.hist }) s

end Sys2Proof.Machine
end

