-- ==== Sys2Proof/Machine/Common.lean ====
section
/-! DEFINITION. NOP (spec/40_common.md rule R168). -/

namespace Sys2Proof.Machine

open Sys2Proof

/-- NOP: `Perform(NOP): return 0` (rule R168). -/
def execNop (s : State) : Host.Outcome State Fault Refusal := attempt [] s s

end Sys2Proof.Machine
end

