-- ==== Sys2Proof/Machine/Driver.lean ====
section
/-! DEFINITION. The simulation driver: STEP and RUN (spec/45_driver.md). -/

namespace Sys2Proof.Machine

open Sys2Proof

/-- The state vector of STEP and RUN: `VREG[k][0..D)` (rules R273, R274). -/
def stateVector (k : VNum) (s : State) : List Bool := vectorList s k (stateLen s)

/-- STEP: one application of MAT to the state in VREG[k], its codes in HIST row 0 (rule R273). -/
def execStep (k : VNum) (s : State) : Host.Outcome State Fault Refusal :=
  let y := applyMat (stateLen s) (matBit s) (stateVector k s)
  attempt [checkSizeN s, checkCapN s, checkDims k s]
    (setExtent 1 (cellCount s)
      { setVreg k y s with hist := writeCodes 0 (cellCount s) y s.hist }) s

/-- The loop of RUN with `n` steps to go, the next of them number `r`: S ← MAT·S, then HIST row r ← the codes of S;
it answers the last S and the rows (rule R274). -/
def runLoop (D K : Nat) (M : GfMat) : Nat → Nat → List Bool → List (Memory Code) → List Bool × List (Memory Code)
  | 0, _, S, rows => (S, rows)
  | n + 1, r, S, rows =>
    let S' := applyMat D M S
    runLoop D K M n (r + 1) S' (writeCodes r K S' rows)

/-- RUN: T applications of MAT to the state in VREG[k], the codes of every state in HIST rows 0 to T (rule R274). -/
def execRun (k : VNum) (s : State) : Host.Outcome State Fault Refusal :=
  let S := stateVector k s
  let final := runLoop (stateLen s) (cellCount s) (matBit s) (stepCount s) 1 S (writeCodes 0 (cellCount s) S s.hist)
  attempt [checkSizeN s, checkSizeT s, checkCapN s, checkCapT s, checkDims k s]
    (setExtent (stepCount s + 1) (cellCount s) { setVreg k final.1 s with hist := final.2 }) s

end Sys2Proof.Machine
end

