-- ==== Sys2Proof/Machine/Product.lean ====
section
/-! DEFINITION. The field arithmetic primitive: MV and VCLR (spec/41_mv.md). -/

namespace Sys2Proof.Machine

open Sys2Proof

/-- The product that MV computes, with m = MROWS rows and n = MCOLS columns (rule R181). -/
def productList (k : VNum) (s : State) : List Bool :=
  (List.range s.mrows.toNat).map (mulVec s.mcols.toNat (matBit s) (vregBit s k))

/-- MV: VREG[d] ← MAT·VREG[k] mod 2, VLEN[d] ← MROWS (rule R181). -/
def execMv (d k : VNum) (s : State) : Host.Outcome State Fault Refusal :=
  attempt
    [ checkDmax s.mrows.toNat s, checkDmax s.mcols.toNat s, checkDmax (vlenOf s k).toNat s,
      (decide ((vlenOf s k).toNat ≠ s.mcols.toNat), .dim) ]
    (writeVec d (productList k s) s) s

/-- VCLR: VREG[d] ← 0, VLEN[d] unchanged (rule R182). -/
def execVclr (d : VNum) (s : State) : Host.Outcome State Fault Refusal :=
  attempt [] (setVreg d [] s) s

end Sys2Proof.Machine
end

