-- ==== Sys2Proof/Machine/Shiftgen.lean ====
section
/-! DEFINITION. The shift-matrix generator: SHIFTGEN.L and SHIFTGEN.R (spec/42_shiftgen.md). -/

namespace Sys2Proof.Machine

open Sys2Proof

/-- SHIFTGEN.L: MAT ← L, MROWS = MCOLS = N (rule R202). -/
def execShiftgenL (s : State) : Host.Outcome State Fault Refusal :=
  attempt (gridChecks s) (setDims (gridSize s) (gridSize s) (loadMat (gridSize s) (shiftLeft (gridSize s)) s)) s

/-- SHIFTGEN.R: MAT ← R, MROWS = MCOLS = N (rule R203). -/
def execShiftgenR (s : State) : Host.Outcome State Fault Refusal :=
  attempt (gridChecks s) (setDims (gridSize s) (gridSize s) (loadMat (gridSize s) (shiftRight (gridSize s)) s)) s

end Sys2Proof.Machine
end

