-- ==== Sys2Proof/Machine/Dispatch.lean ====
section
/-! DEFINITION. exec: the engine step of one decoded command, one arm per constructor of Instr. -/

namespace Sys2Proof.Machine

open Sys2Proof

def exec (i : Instr) (s : State) : Host.Outcome State Fault Refusal :=
  match i with
  | .nop => Sys2Proof.Machine.execNop s
  | .mv d k => Sys2Proof.Machine.execMv d k s
  | .vclr d => Sys2Proof.Machine.execVclr d s
  | .shiftgenL => Sys2Proof.Machine.execShiftgenL s
  | .shiftgenR => Sys2Proof.Machine.execShiftgenR s
  | .matclr => Sys2Proof.Machine.execMatclr s
  | .opaccI b => Sys2Proof.Machine.execOpaccI b s
  | .opaccHl b => Sys2Proof.Machine.execOpaccHl b s
  | .opaccHr b => Sys2Proof.Machine.execOpaccHr b s
  | .opaccVu b => Sys2Proof.Machine.execOpaccVu b s
  | .opaccVd b => Sys2Proof.Machine.execOpaccVd b s
  | .build => Sys2Proof.Machine.execBuild s
  | .encode k => Sys2Proof.Machine.execEncode k s
  | .step k => Sys2Proof.Machine.execStep k s
  | .run k => Sys2Proof.Machine.execRun k s

end Sys2Proof.Machine
end

