-- ==== Sys2Proof/Machine/Port.lean ====
section
/-! DEFINITION. The host's accesses: the register reads and writes, the windows onto MAT, VREG and HIST, and what an
access does while a command runs (spec/20_memory.md rules R85 to R103). -/

namespace Sys2Proof.Machine

open Sys2Proof

/-! ## Windows, read -/

/-- MatElemRead (rule R92). -/
def matElemRead (s : State) : Word :=
  if s.matrow.toNat < s.cfg.dmax ∧ s.matcol.toNat < s.cfg.dmax then flagAt 0 (matBit s s.matrow.toNat s.matcol.toNat)
  else 0

/-- MatWordRead: bits outside the matrix read 0 (rule R93). -/
def matWordRead (s : State) : Word :=
  packBits 32 fun j =>
    decide (s.matrow.toNat < s.cfg.dmax ∧ wordBase s.matcol + j < s.cfg.dmax)
      && matBit s s.matrow.toNat (wordBase s.matcol + j)

/-- VElemRead (rule R94). -/
def vElemRead (s : State) : Word :=
  if s.vidx.toNat < s.cfg.dmax then flagAt 0 (vregBit s s.vsel s.vidx.toNat) else 0

/-- VWordRead (rule R95). -/
def vWordRead (s : State) : Word :=
  packBits 32 fun j => decide (wordBase s.vidx + j < s.cfg.dmax) && vregBit s s.vsel (wordBase s.vidx + j)

/-- HCodeRead (rule R97). -/
def hCodeRead (s : State) : Word :=
  if s.hrow.toNat < s.cfg.hdepth ∧ s.hidx.toNat < s.cfg.cmax then (histCode s s.hrow.toNat s.hidx.toNat).setWidth 32
  else 0

/-- HWordRead: bits [2j+1:2j] are the code of cell base + j (rules R89, R98). -/
def hWordRead (s : State) : Word :=
  packBits 32 fun k =>
    decide (s.hrow.toNat < s.cfg.hdepth ∧ codeBase s.hidx + k / 2 < s.cfg.cmax)
      && (histCode s s.hrow.toNat (codeBase s.hidx + k / 2)).getLsbD (k % 2)

/-! ## Windows, written -/

/-- RANGE is set by a window write whose index points outside the memory (rule R40). -/
def setRange (s : State) : State := { s with range := true }

/-- MatElemWrite: bit 0 of the word is stored (rules R92, R100). -/
def matElemWrite (v : Word) (s : State) : State :=
  if s.matrow.toNat < s.cfg.dmax ∧ s.matcol.toNat < s.cfg.dmax then
    { s with mat := s.mat.write false (s.matrow.toNat * s.cfg.dmax + s.matcol.toNat) (v.getLsbD 0) }
  else setRange s

/-- The indices of a word window that lie inside a memory of `size` elements (rules R93, R95). -/
def wordSpan (base size : Nat) : List Nat := ((List.range 32).map (base + ·)).filter (· < size)

/-- MatWordWrite: bits for columns from DMAX on are dropped (rule R93). -/
def matWordWrite (v : Word) (s : State) : State :=
  if s.matrow.toNat < s.cfg.dmax ∧ wordBase s.matcol < s.cfg.dmax then
    let row := s.matrow.toNat * s.cfg.dmax
    let base := wordBase s.matcol
    { s with
      mat := s.mat.writeAll false ((wordSpan base s.cfg.dmax).map (row + ·)) fun a => v.getLsbD (a - row - base) }
  else setRange s

/-- VElemWrite: bit 0 of the word is stored (rules R94, R100). -/
def vElemWrite (v : Word) (s : State) : State :=
  if s.vidx.toNat < s.cfg.dmax then
    { s with vreg := s.vreg.set s.vsel ((s.vreg.get s.vsel).write false s.vidx.toNat (v.getLsbD 0)) }
  else setRange s

/-- VWordWrite (rule R95). -/
def vWordWrite (v : Word) (s : State) : State :=
  if wordBase s.vidx < s.cfg.dmax then
    let base := wordBase s.vidx
    { s with
      vreg := s.vreg.set s.vsel
        ((s.vreg.get s.vsel).writeAll false (wordSpan base s.cfg.dmax) fun a => v.getLsbD (a - base)) }
  else setRange s

/-! ## Registers -/

/-- ID (rule R33). -/
def idWord : Word := 0x47463201

/-- PARAM: {HDEPTH[15:0], NMAX[15:0]} (rule R34). -/
def paramWord (c : Config) : Word := (BitVec.ofNat 16 c.hdepth ++ BitVec.ofNat 16 c.nmax).setWidth 32

/-- What a read of a register returns (rule R90). -/
def readReg (s : State) : Reg → Word
  | .id => idWord
  | .param => paramWord s.cfg
  | .ctrl => flagAt 0 s.ie
  | .status => statusWord s
  | .cmd => s.lastcmd
  | .nreg => s.nreg
  | .treg => s.treg
  | .mrows => s.mrows
  | .mcols => s.mcols
  | .matrow => s.matrow
  | .matcol => s.matcol
  | .matelem => matElemRead s
  | .matword => matWordRead s
  | .vsel => s.vsel.setWidth 32
  | .vidx => s.vidx
  | .velem => vElemRead s
  | .vword => vWordRead s
  | .vlen => vlenOf s s.vsel
  | .hrow => s.hrow
  | .hidx => s.hidx
  | .hcode => hCodeRead s
  | .hword => hWordRead s
  | .hrows => s.hrows
  | .hm => s.hm
  | .reserved => 0

/-- What a write of a register does (rule R91). -/
def writeReg (v : Word) (s : State) : Reg → State
  | .ctrl => { s with ie := v.getLsbD 0 }
  | .status => writeStatus v s
  | .cmd => issueCommand v s
  | .nreg => { s with nreg := v }
  | .treg => { s with treg := v }
  | .mrows => { s with mrows := v }
  | .mcols => { s with mcols := v }
  | .matrow => { s with matrow := v }
  | .matcol => { s with matcol := v }
  | .matelem => matElemWrite v s
  | .matword => matWordWrite v s
  | .vsel => { s with vsel := v.extractLsb' 0 2 }
  | .vidx => { s with vidx := v }
  | .velem => vElemWrite v s
  | .vword => vWordWrite v s
  | .vlen => { s with vlen := s.vlen.set s.vsel v }
  | .hrow => { s with hrow := v }
  | .hidx => { s with hidx := v }
  | .id => s
  | .param => s
  | .hcode => s
  | .hword => s
  | .hrows => s
  | .hm => s
  | .reserved => s

/-! ## Accesses -/

/-- The value of a host read is returned to the host. -/
def returnRead (v : Word) (s : State) : State := { s with reads := v :: s.reads }

/-- MemRead (rule R90). While BUSY = 1 a read outside ID, PARAM, CTRL and STATUS returns a free value; while rst_n is
low the bus is ignored (rule R340). -/
def hostRead (paddr : Offset) (s : State) : State :=
  if s.rstN then
    if s.busy && !readableBusy (regAt paddr) then
      { returnRead (Config.busyRead s.draws) s with draws := s.draws + 1 }
    else returnRead (readReg s (regAt paddr)) s
  else s

/-- MemWrite (rule R91). While BUSY = 1 a write outside CTRL and STATUS is ignored and sets OVR; while rst_n is low
the bus is ignored (rule R340). -/
def hostWrite (paddr : Offset) (v : Word) (s : State) : State :=
  if s.rstN then
    if s.busy && !writableBusy (regAt paddr) then { s with ovr := true }
    else writeReg v s (regAt paddr)
  else s

end Sys2Proof.Machine
end

