-- ==== Sys2Proof/Machine/Engine.lean ====
section
/-! DEFINITION. The engine step and what each input from outside does (spec/40_common.md rule R163, spec/20_memory.md
rules R102, R103, spec/70_reset_and_hazards.md rules R340, R343). -/

namespace Sys2Proof.Machine

open Sys2Proof

/-- EngineStep (rule R163): the command in PEND is decoded and performed; a word that is no command completes with
ILLEGAL and no other effect (rule R129). -/
def engineStep (s : State) : Host.Outcome State Fault Refusal :=
  match decode s.pend with
  | none => .next (complete .illegal s)
  | some i => exec i s

/-- The engine's turn: it has a step exactly when BUSY = 1 (rule R163) and reset is not held (rule R340); otherwise
the block does nothing (rule R321). -/
def engineTurn (s : State) : Host.Outcome State Fault Refusal :=
  if s.rstN && s.busy then engineStep s else .next s

/-- What an input does (rules R90, R91, R103, R340). -/
def deliver (e : Event) (s : State) : Host.Outcome State Fault Refusal :=
  match e with
  | .read paddr => .next (hostRead paddr s)
  | .write paddr v => .next (hostWrite paddr v s)
  | .engine => engineTurn s
  | .reset level => .next (driveReset level s)

/-- The state in which the word `w` has just been written to CMD and the engine's turn comes next (rules R160, R161):
how a command comes to run (log 7). -/
def presentCommand (w : Word) (s : State) : State :=
  { issueCommand w s with rstN := true, inputs := .engine :: s.inputs }

end Sys2Proof.Machine
end

