-- ==== Sys2Proof/Machine/Step.lean ====
section
/-! DEFINITION. One step of the machine: the next input from outside, or, where none is left, the engine's turn
(spec/00_scope.md rule R23, spec/40_common.md rule R169). -/

namespace Sys2Proof.Machine

open Sys2Proof

/-- One step. The inputs fix which agent moves next, so that every interleaving of host accesses and engine steps is
some list of inputs (rule R103); after the last of them the engine moves, so a command in flight completes (rule
R169, log 6). -/
def step (s : State) : Host.Outcome State Fault Refusal :=
  match s.inputs with
  | [] => engineTurn s
  | e :: rest => deliver e { s with inputs := rest }

/-- `s` with the command word of the `nbits` low bits of `w` issued and the engine's turn next (log 7). -/
def State.withFetchWord (s : State) (nbits w : Nat) : State :=
  presentCommand (BitVec.ofNat 32 (w % 2 ^ nbits)) s

end Sys2Proof.Machine
end

