-- ==== Sys2Proof/Safety.lean ====
section
/-! DEFINITION. What a sound state is, in the terms the statements use. -/

namespace Sys2Proof.Machine

open Sys2Proof

/-- The result codes the block produces: never SYMBOL (3) and never 7 to 15 (spec/60_exceptions.md rule R301). -/
abbrev legalCode (c : BitVec 4) : Prop := c = 0 ∨ c = 1 ∨ c = 2 ∨ c = 4 ∨ c = 5 ∨ c = 6

/-- The shape of the machine's data: parameters in range (spec/00_scope.md rules R7, R10), every memory in canonical
form and of the size the spec gives it (spec/10_state.md rules R50 to R52). -/
structure State.Shape (s : State) : Prop where
  params : s.cfg.ok
  mat : s.mat.wf false (s.cfg.dmax * s.cfg.dmax)
  vreg : ∀ k, (s.vreg.get k).wf false s.cfg.dmax
  rows : s.hist.length = s.cfg.hdepth
  hist : ∀ m ∈ s.hist, m.wf 0 s.cfg.cmax

/-- The rules the control state keeps: a command in flight has its word in LASTCMD too and neither DONE nor an error
(spec/10_state.md rule R55, spec/40_common.md rule R161), only the codes of rule R301 appear, and HROWS and HM lie
within HIST (spec/10_state.md rule R54). While reset is held no command is in flight and DONE is 0. That clause, `held`,
is the model's choice (DESIGN CHOICE, log 8): rules R340 and R343 of spec/70_reset_and_hazards.md say that irq is 0 then
and that the command is abandoned, and give register values only for when reset ends. -/
structure State.Control (s : State) : Prop where
  inFlight : s.busy = true → s.pend = s.lastcmd ∧ s.done = false ∧ s.errcode = 0
  held : s.rstN = false → s.busy = false ∧ s.done = false
  code : legalCode s.errcode
  extent : s.hrows.toNat ≤ s.cfg.hdepth ∧ s.hm.toNat ≤ s.cfg.cmax

/-- The invariant of the machine. -/
structure State.Inv (s : State) : Prop where
  shape : s.Shape
  control : s.Control

end Sys2Proof.Machine
end

