-- ==== Sys2Proof/Certificates/Slice0/Obligations.lean ====
section
/-! DEFINITION. The statements about the model, each from the rules of spec/ its docstring names. -/

namespace Sys2Proof.Machine

open Sys2Proof

/-! ## Words the statements share -/

/-- N = NREG is a size the block accepts: 1 ≤ N ≤ NMAX (rule R167). -/
abbrev SizeIs (N : Nat) (s : State) : Prop := s.nreg.toInt = (N : Int) ∧ 1 ≤ N ∧ N ≤ s.cfg.nmax

/-- T = TREG is a step count the block accepts: 0 ≤ T and T + 1 ≤ HDEPTH (rule R270). -/
abbrev StepsAre (T : Nat) (s : State) : Prop := s.treg.toInt = (T : Int) ∧ T + 1 ≤ s.cfg.hdepth

/-- MROWS = MCOLS = VLEN[k] = D (rule R271). -/
abbrev DimsAre (D : Nat) (k : VNum) (s : State) : Prop :=
  s.mrows.toNat = D ∧ s.mcols.toNat = D ∧ (vlenOf s k).toNat = D

/-- The entry of a grid operator at row r·N + c and column r'·N + c', as rule R221 gives it. -/
def gridEntry (N : Nat) (op : GridOp) (r c r' c' : Nat) : Bool :=
  match op with
  | .ident => r' == r && c' == c
  | .hLeft => r' == r && c' == (c + N - 1) % N
  | .hRight => r' == r && c' == (c + 1) % N
  | .vUp => r' == (r + N - 1) % N && c' == c
  | .vDown => r' == (r + 1) % N && c' == c

/-- The entry of A: the five operators' entries added mod 2 (rule R225). -/
def plusEntry (N r c r' c' : Nat) : Bool :=
  gridEntry N .hLeft r c r' c' ^^ gridEntry N .hRight r c r' c' ^^ gridEntry N .vUp r c r' c' ^^
    gridEntry N .vDown r c r' c' ^^ gridEntry N .ident r c r' c'

/-- The state vector after k applications of a D×D matrix, element by element (rules R18, R277). -/
def powerVec (D : Nat) (M : GfMat) (v : GfVec) : Nat → GfVec
  | 0 => v
  | k + 1 => fun i => xorSum D fun j => M i j && powerVec D M v k j

/-- The result code rule R308's table gives a command: the first of its checks that fails, 0 if none does. -/
def expectedCode (i : Instr) (s : State) : BitVec 4 :=
  let n := s.nreg.toInt
  let t := s.treg.toInt
  let D := 2 * (n.toNat * n.toNat)
  let badDims (k : VNum) := s.mrows.toNat ≠ D ∨ s.mcols.toNat ≠ D ∨ (vlenOf s k).toNat ≠ D
  match i with
  | .nop => 0
  | .vclr _ => 0
  | .matclr => 0
  | .mv _ k =>
    if s.mrows.toNat > s.cfg.dmax ∨ s.mcols.toNat > s.cfg.dmax ∨ (vlenOf s k).toNat > s.cfg.dmax then 5
    else if vlenOf s k ≠ s.mcols then 1 else 0
  | .shiftgenL => if n ≤ 0 then 2 else if n > s.cfg.nmax then 5 else 0
  | .shiftgenR => if n ≤ 0 then 2 else if n > s.cfg.nmax then 5 else 0
  | .opaccI _ => if n ≤ 0 then 2 else if n > s.cfg.nmax then 5 else 0
  | .opaccHl _ => if n ≤ 0 then 2 else if n > s.cfg.nmax then 5 else 0
  | .opaccHr _ => if n ≤ 0 then 2 else if n > s.cfg.nmax then 5 else 0
  | .opaccVu _ => if n ≤ 0 then 2 else if n > s.cfg.nmax then 5 else 0
  | .opaccVd _ => if n ≤ 0 then 2 else if n > s.cfg.nmax then 5 else 0
  | .build => if n ≤ 0 then 2 else if n > s.cfg.nmax then 5 else 0
  | .encode k => if (vlenOf s k).toNat > s.cfg.dmax then 5 else if (vlenOf s k).getLsbD 0 then 4 else 0
  | .step k => if n ≤ 0 then 2 else if n > s.cfg.nmax then 5 else if badDims k then 1 else 0
  | .run k =>
    if n ≤ 0 ∨ t < 0 then 2
    else if n > s.cfg.nmax ∨ t + 1 > s.cfg.hdepth then 5
    else if badDims k then 1 else 0

/-- Commands performed one after the other. -/
def execAll : List Instr → State → Host.Outcome State Fault Refusal
  | [], s => .next s
  | i :: rest, s =>
    match exec i s with
    | .next t => execAll rest t
    | .fault f => .fault f
    | .refused r => .refused r

/-- The OPACC command of a grid operator (rule R122). -/
def opacc (op : GridOp) (b : Quadrant) : Instr :=
  match op with
  | .ident => .opaccI b
  | .hLeft => .opaccHl b
  | .hRight => .opaccHr b
  | .vUp => .opaccVu b
  | .vDown => .opaccVd b

/-- An offset of CTRL or STATUS, low bits ignored (rules R83, R84). -/
abbrev ctrlOrStatus (a : Offset) : Prop := 0x008 ≤ a.toNat ∧ a.toNat < 0x010

/-- An offset of ID, PARAM, CTRL or STATUS, low bits ignored (rules R83, R84). -/
abbrev readableWhileBusy (a : Offset) : Prop := a.toNat < 0x010

/-- The registers that store what is written, with the offset of each (rules R43 to R49, R53, R84). -/
def storedRegisters (s : State) : List (Offset × Word) :=
  [ (0x014, s.nreg), (0x018, s.treg), (0x01C, s.mrows), (0x020, s.mcols), (0x030, s.matrow), (0x034, s.matcol),
    (0x044, s.vidx), (0x050, vlenOf s s.vsel), (0x060, s.hrow), (0x064, s.hidx) ]

/-- The registers the host can only read, with the offset and value of each (rules R33, R34, R42, R54, R84). -/
def readOnlyRegisters (s : State) : List (Offset × Word) :=
  [ (0x000, 0x47463201), (0x004, BitVec.ofNat 32 (s.cfg.hdepth * 65536 + s.cfg.nmax)), (0x010, s.lastcmd),
    (0x070, s.hrows), (0x074, s.hm) ]

end Sys2Proof.Machine

open Sys2Proof Sys2Proof.Machine

/-! ## Encoding -/

/-- Rules R123, R131, R132: the word of every command decodes to that command, every operand at every value. -/
def Obligations.DecodeOfEncode : Prop :=
  ∀ i : Instr, i.wf = true → decode (encode i) = some i

/-- Rules R131, R132: a word that decodes to a command is that command's word, so no bit of it is dropped. -/
def Obligations.EncodeOfDecode : Prop :=
  ∀ (w : Word) (i : Instr), decode w = some i → encode i = w

/-- Rules R122, R125 to R130: the (match, mask) table accepts exactly the words whose fields are as the field table
demands; every other word is no command. -/
def Obligations.DecodesExactlyTheWellFormedWords : Prop :=
  ∀ w : Word, (decode w).isSome = wordWf w

/-- Rule R123: no word matches two rows of the table. -/
def Obligations.NoWordSelectsTwoRows : Prop :=
  ∀ w : Word, commandTable.Pairwise fun r r' => ¬ (r.selects w = true ∧ r'.selects w = true)

/-- Rule R134: the encoding examples, from the command to its word and back, and the words it lists as illegal. -/
def Obligations.EncodingExamples : Prop :=
  encode (.mv 1 0) = 0x00000101 ∧ encode (.mv 2 1) = 0x00000601 ∧ encode (.vclr 3) = 0x00000302 ∧
    encode (.opaccI 1) = 0x00010021 ∧ encode (.opaccI 2) = 0x00020021 ∧ encode (.opaccVd 0) = 0x00004021 ∧
    encode (.encode 1) = 0x00000430 ∧ encode (.run 2) = 0x00000841 ∧
    decode 0x00000101 = some (.mv 1 0) ∧ decode 0x00000601 = some (.mv 2 1) ∧ decode 0x00000302 = some (.vclr 3) ∧
    decode 0x00010021 = some (.opaccI 1) ∧ decode 0x00020021 = some (.opaccI 2) ∧
    decode 0x00004021 = some (.opaccVd 0) ∧ decode 0x00000430 = some (.encode 1) ∧
    decode 0x00000841 = some (.run 2) ∧ decode 0x00000041 = some (.run 0) ∧
    decode 0x00008041 = none ∧ decode 0x00000141 = none ∧ decode 0x00005021 = none ∧ decode 0x00002010 = none ∧
    decode 0x000000FF = none

/-! ## The command lifecycle -/

/-- Rules R103, R163, R340: what a step does. With a command in flight and reset not held, the engine's turn (an
`engine` input, or no input left) runs the command in PEND; the other inputs are a host read, a host write and a level
of rst_n. Which of them comes next is the model's list of inputs (log 6). -/
def Obligations.StepRunsTheDecodedCommand : Prop :=
  ∀ (s : State) (rest : List Event),
    (∀ i, s.rstN = true → s.busy = true → decode s.pend = some i →
      step { s with inputs := [] } = exec i { s with inputs := [] } ∧
      step { s with inputs := .engine :: rest } = exec i { s with inputs := rest }) ∧
    (∀ a, step { s with inputs := .read a :: rest } = .next (hostRead a { s with inputs := rest })) ∧
    (∀ a v, step { s with inputs := .write a v :: rest } = .next (hostWrite a v { s with inputs := rest })) ∧
    (∀ l, step { s with inputs := .reset l :: rest } = .next (driveReset l { s with inputs := rest }))

/-- Rules R129, R163, R307: the engine step of a word that is no command completes with ILLEGAL (6) and has no other
effect. -/
def Obligations.IllegalWordsComplete : Prop :=
  ∀ s : State, wordWf s.pend = false →
    engineStep s = .next { s with errcode := 6, done := true, busy := false }

/-- Rule R161: a write of any word to CMD while idle issues it, and changes nothing else. -/
def Obligations.IssueCommandEffect : Prop :=
  ∀ (s : State) (v : Word), s.rstN = true → s.busy = false →
    hostWrite 0x010 v s = { s with lastcmd := v, pend := v, errcode := 0, done := false, busy := true }

/-- Rules R160, R163: the CMD write of a command's word followed by the engine's turn performs that command. -/
def Obligations.IssuedCommandIsPerformed : Prop :=
  ∀ (s : State) (i : Instr) (rest : List Event), s.rstN = true → s.busy = false →
    s.inputs = .write 0x010 (encode i) :: .engine :: rest →
    ∃ t, step s = .next t ∧ t.busy = true ∧ t.lastcmd = encode i ∧ t.pend = encode i ∧
      step t = exec i { t with inputs := rest }

/-- Rule R165: a command that ends with an error changes only ERRCODE, DONE and BUSY. -/
def Obligations.RaisedCommandsChangeNoData : Prop :=
  ∀ (i : Instr) (s t : State), exec i s = .next t → t.errcode ≠ 0 →
    t = { s with errcode := t.errcode, done := true, busy := false }

/-- Rules R164, R300, R308: from every state every command completes, with DONE = 1, BUSY = 0 and the first error of
its row of rule R308's table, 0 where none applies; a word that is no command reports ILLEGAL (6), whatever the rest of
the state. -/
def Obligations.ErrorPriority : Prop :=
  (∀ (i : Instr) (s : State), ∃ t, exec i s = .next t ∧ t.done = true ∧ t.busy = false ∧
    t.errcode = expectedCode i s) ∧
  ∀ s : State, ∃ t, engineStep s = .next t ∧ t.done = true ∧ t.busy = false ∧
    t.errcode = match decode s.pend with
      | none => 6
      | some i => expectedCode i s

/-- Rule R56: no command reads DONE, OVR, RANGE or ERRCODE: with other flags it does the same, and OVR and RANGE stay
as they were. -/
def Obligations.NoCommandReadsAFlag : Prop :=
  ∀ (i : Instr) (s : State) (done ovr range : Bool) (code : BitVec 4),
    ∃ t, exec i s = .next t ∧
      exec i { s with done := done, ovr := ovr, range := range, errcode := code } =
        .next { t with ovr := ovr, range := range }

/-- Rule R169: every issued command completes. With a command in flight and no reset to come, within one step more than
there are inputs left the command has completed, whatever the host does meanwhile (the bound is the model's, log 6). -/
def Obligations.EveryIssuedCommandCompletes : Prop :=
  ∀ s : State, s.rstN = true → s.busy = true → (∀ e ∈ s.inputs, e ≠ .reset false) →
    ∃ k ≤ s.inputs.length + 1, ∃ t : State,
      Sys2Proof.core.run k s = Host.Outcome.next t ∧ t.busy = false ∧ t.done = true ∧ t.lastcmd = s.lastcmd

/-- Rule R160: a write of CMD while idle issues its word, and a command starts in no other way. -/
def Obligations.OnlyACmdWriteStartsACommand : Prop :=
  (∀ (s : State) (a : Offset) (v : Word) (rest : List Event), s.rstN = true → s.busy = false →
    s.inputs = .write a v :: rest → 0x010 ≤ a.toNat → a.toNat < 0x014 →
    ∃ t, step s = .next t ∧ t.busy = true ∧ t.pend = v ∧ t.lastcmd = v) ∧
  ∀ s t : State, step s = .next t → s.busy = false → t.busy = true →
    s.rstN = true ∧
      ∃ a v rest, s.inputs = .write a v :: rest ∧ 0x010 ≤ a.toNat ∧ a.toNat < 0x014 ∧ t.pend = v ∧ t.lastcmd = v

/-- Rules R91, R349: while a command runs, a write outside CTRL and STATUS only sets OVR, and the command does what it
would have done without it. -/
def Obligations.BusyWritesOnlySetOvr : Prop :=
  ∀ (s : State) (a : Offset) (v : Word), s.rstN = true → s.busy = true → ¬ ctrlOrStatus a →
    hostWrite a v s = { s with ovr := true } ∧
      ∃ t, engineStep s = .next t ∧ engineStep (hostWrite a v s) = .next { t with ovr := true }

/-! ## NOP, MV, VCLR -/

/-- Rules R164, R168: NOP completes from every state with no error and no other effect. -/
def Obligations.NopEffect : Prop :=
  ∀ s : State, exec .nop s = .next { s with errcode := 0, done := true, busy := false }

/-- Rules R18, R180, R181: where the lengths fit and agree, MV completes with VREG[d] the product of the old source and
MAT, zeros from MROWS on, and VLEN[d] = MROWS; every other register and memory is unchanged. d = k is included. -/
def Obligations.MvResult : Prop :=
  ∀ (s : State) (d k : VNum), s.mrows.toNat ≤ s.cfg.dmax → s.mcols.toNat ≤ s.cfg.dmax → vlenOf s k = s.mcols →
    ∃ t, exec (.mv d k) s = .next t ∧
      t = { s with vreg := t.vreg, vlen := s.vlen.set d s.mrows, errcode := 0, done := true, busy := false } ∧
      (∀ i, vregBit t d i =
        (decide (i < s.mrows.toNat) && xorSum s.mcols.toNat fun j => matBit s i j && vregBit s k j)) ∧
      ∀ k', k' ≠ d → t.vreg.get k' = s.vreg.get k'

/-- Rule R182: VCLR completes from every state with VREG[d] all zero; VLEN[d] and everything else are unchanged. -/
def Obligations.VclrResult : Prop :=
  ∀ (s : State) (d : VNum), ∃ t, exec (.vclr d) s = .next t ∧
    t = { s with vreg := t.vreg, errcode := 0, done := true, busy := false } ∧
    (∀ i, vregBit t d i = false) ∧ ∀ k, k ≠ d → t.vreg.get k = s.vreg.get k

/-- Frame of MV and VCLR, with or without an error: only VREG[d], for MV also VLEN[d], and ERRCODE, DONE and BUSY can
change. -/
def Obligations.VectorCommandsFrame : Prop :=
  ∀ (s t : State) (d k : VNum),
    (exec (.mv d k) s = .next t →
      t = { s with vreg := t.vreg, vlen := t.vlen, errcode := t.errcode, done := t.done, busy := t.busy } ∧
      (∀ k', k' ≠ d → t.vreg.get k' = s.vreg.get k') ∧ ∀ k', k' ≠ d → t.vlen.get k' = s.vlen.get k') ∧
    (exec (.vclr d) s = .next t →
      t = { s with vreg := t.vreg, errcode := t.errcode, done := t.done, busy := t.busy } ∧
      ∀ k', k' ≠ d → t.vreg.get k' = s.vreg.get k')

/-! ## SHIFTGEN -/

/-- Rules R200, R202, R203: with an accepted N, SHIFTGEN.L and SHIFTGEN.R complete with MAT holding L or R in its N×N
corner and 0 elsewhere, and MROWS = MCOLS = N; everything else is unchanged. -/
def Obligations.ShiftgenResults : Prop :=
  ∀ (s : State) (N : Nat), SizeIs N s →
    (∃ t, exec .shiftgenL s = .next t ∧
      t = { s with mat := t.mat, mrows := s.nreg, mcols := s.nreg, errcode := 0, done := true, busy := false } ∧
      ∀ i j, i < s.cfg.dmax → j < s.cfg.dmax → matBit t i j = decide (i < N ∧ j = (i + N - 1) % N)) ∧
    ∃ t, exec .shiftgenR s = .next t ∧
      t = { s with mat := t.mat, mrows := s.nreg, mcols := s.nreg, errcode := 0, done := true, busy := false } ∧
      ∀ i j, i < s.cfg.dmax → j < s.cfg.dmax → matBit t i j = decide (i < N ∧ j = (i + 1) % N)

/-- Rule R201: for every N ≥ 1, L·R = R·L = Identity_N, and each row and each column of L and of R has exactly one 1.
For N = 1 both are [1], for N = 2 both are [[0,1],[1,0]], from N = 3 on they differ; from N = 2 on L·L and R·R are not
L and R. -/
def Obligations.ShiftsAreInversePermutations : Prop :=
  ∀ N : Nat, 1 ≤ N →
    (∀ i < N, ∀ k < N,
      xorSum N (fun j => shiftLeft N i j && shiftRight N j k) = (i == k) ∧
      xorSum N (fun j => shiftRight N i j && shiftLeft N j k) = (i == k)) ∧
    (∀ i < N, (∃! j, j < N ∧ shiftLeft N i j = true) ∧ ∃! j, j < N ∧ shiftRight N i j = true) ∧
    (∀ j < N, (∃! i, i < N ∧ shiftLeft N i j = true) ∧ ∃! i, i < N ∧ shiftRight N i j = true) ∧
    (N = 1 → shiftLeft N 0 0 = true ∧ shiftRight N 0 0 = true) ∧
    (N = 2 → ∀ i < 2, ∀ j < 2, shiftLeft N i j = (i != j) ∧ shiftRight N i j = (i != j)) ∧
    (3 ≤ N → ∃ i < N, ∃ j < N, shiftLeft N i j ≠ shiftRight N i j) ∧
    (2 ≤ N → (∃ i < N, ∃ k < N, xorSum N (fun j => shiftLeft N i j && shiftLeft N j k) ≠ shiftLeft N i k) ∧
      ∃ i < N, ∃ k < N, xorSum N (fun j => shiftRight N i j && shiftRight N j k) ≠ shiftRight N i k)

/-! ## MATCLR, OPACC, BUILD -/

/-- Rule R224: MATCLR completes from every state, NREG unread, with every bit of MAT 0; MROWS, MCOLS and everything
else are unchanged. -/
def Obligations.MatclrResult : Prop :=
  ∀ s : State, ∃ t, exec .matclr s = .next t ∧
    t = { s with mat := t.mat, errcode := 0, done := true, busy := false } ∧
    ∀ i j, matBit t i j = false

/-- Rules R127, R221, R222, R227 to R231: with an accepted N each OPACC command completes with its operator XORed into
its quadrant of MAT; MROWS, MCOLS and everything else are unchanged. -/
def Obligations.OpaccResult : Prop :=
  ∀ (s : State) (N : Nat) (op : GridOp) (b : Quadrant), SizeIs N s →
    let ro := if b.getLsbD 1 then N * N else 0
    let co := if b.getLsbD 0 then N * N else 0
    ∃ t, exec (opacc op b) s = .next t ∧
      t = { s with mat := t.mat, errcode := 0, done := true, busy := false } ∧
      (∀ r c r' c', r < N → c < N → r' < N → c' < N →
        matBit t (ro + (r * N + c)) (co + (r' * N + c')) =
          (matBit s (ro + (r * N + c)) (co + (r' * N + c')) ^^ gridEntry N op r c r' c')) ∧
      ∀ i j, i < s.cfg.dmax → j < s.cfg.dmax → ¬ (ro ≤ i ∧ i < ro + N * N ∧ co ≤ j ∧ j < co + N * N) →
        matBit t i j = matBit s i j

/-- Rules R225, R226, R232: with an accepted N, BUILD completes with MAT holding T = [[A, I],[I, 0]] in its corner and
0 elsewhere, and MROWS = MCOLS = 2N². -/
def Obligations.BuildResult : Prop :=
  ∀ (s : State) (N : Nat), SizeIs N s → ∃ t, exec .build s = .next t ∧
    t = { s with
      mat := t.mat, mrows := BitVec.ofNat 32 (2 * (N * N)), mcols := BitVec.ofNat 32 (2 * (N * N))
      errcode := 0, done := true, busy := false } ∧
    (∀ r c r' c', r < N → c < N → r' < N → c' < N →
      matBit t (r * N + c) (r' * N + c') = plusEntry N r c r' c') ∧
    (∀ p q, p < N * N → q < N * N →
      matBit t p (N * N + q) = (p == q) ∧ matBit t (N * N + p) q = (p == q) ∧
        matBit t (N * N + p) (N * N + q) = false) ∧
    ∀ i j, i < s.cfg.dmax → j < s.cfg.dmax → (2 * (N * N) ≤ i ∨ 2 * (N * N) ≤ j) → matBit t i j = false

/-- Frame of the commands that write MAT, with or without an error: MATCLR and OPACC change no register but ERRCODE,
DONE and BUSY; SHIFTGEN and BUILD also MROWS and MCOLS; OPACC leaves every element outside its quadrant as it was. -/
def Obligations.MatrixCommandsFrame : Prop :=
  ∀ (s t : State),
    (∀ i : Instr, i = .shiftgenL ∨ i = .shiftgenR ∨ i = .build → exec i s = .next t →
      t = { s with
        mat := t.mat, mrows := t.mrows, mcols := t.mcols, errcode := t.errcode, done := t.done, busy := t.busy }) ∧
    (exec .matclr s = .next t →
      t = { s with mat := t.mat, errcode := t.errcode, done := t.done, busy := t.busy }) ∧
    ∀ (op : GridOp) (b : Quadrant), exec (opacc op b) s = .next t →
      t = { s with mat := t.mat, errcode := t.errcode, done := t.done, busy := t.busy } ∧
      ∀ i j, i < s.cfg.dmax → j < s.cfg.dmax →
        ¬ (rowOffset b (cellCount s) ≤ i ∧ i < rowOffset b (cellCount s) + cellCount s ∧
          colOffset b (cellCount s) ≤ j ∧ j < colOffset b (cellCount s) + cellCount s) →
        matBit t i j = matBit s i j

/-- Section 4 of spec/43_builder.md: adding the same operator twice to the same quadrant restores every bit of MAT. -/
def Obligations.OpaccIsItsOwnInverse : Prop :=
  ∀ (s : State) (N : Nat) (op : GridOp) (b : Quadrant), SizeIs N s →
    ∃ t, execAll [opacc op b, opacc op b] s = .next t ∧
      ∀ i j, i < s.cfg.dmax → j < s.cfg.dmax → matBit t i j = matBit s i j

/-- Rule R233: for any MAT contents BUILD leaves MAT, MROWS and MCOLS as MATCLR, the seven OPACC commands in any order
and setdims 2K, 2K do. -/
def Obligations.BuildEqualsAccumulation : Prop :=
  ∀ (s : State) (N : Nat) (order : List Instr), SizeIs N s → s.rstN = true →
    order.Perm [.opaccI 0, .opaccHl 0, .opaccHr 0, .opaccVu 0, .opaccVd 0, .opaccI 1, .opaccI 2] →
    ∃ t u, exec .build s = .next t ∧ execAll (.matclr :: order) s = .next u ∧
      let v := hostWrite 0x020 (BitVec.ofNat 32 (2 * (N * N))) (hostWrite 0x01C (BitVec.ofNat 32 (2 * (N * N))) u)
      v.mrows = t.mrows ∧ v.mcols = t.mcols ∧
        ∀ i j, i < s.cfg.dmax → j < s.cfg.dmax → matBit v i j = matBit t i j

/-- Rules R220, R221: the Kronecker products have the entries rule R221 lists. -/
def Obligations.KroneckerEntries : Prop :=
  ∀ (N : Nat) (op : GridOp) (r c r' c' : Nat), r < N → c < N → r' < N → c' < N →
    gridMat N op (r * N + c) (r' * N + c') = gridEntry N op r c r' c'

/-- Rule R234: for N = 1 every shift is [1], A = [1] and T = [[1,1],[1,0]]; for N = 2, L = R, H_left = H_right,
V_up = V_down, A = I_4 and T = [[I_4, I_4],[I_4, 0]] (so rule R232 too); for N ≥ 3 the five cells of the plus shape are distinct and every row of A has exactly five
ones. -/
def Obligations.SmallGrids : Prop :=
  (shiftLeft 1 0 0 = true ∧ shiftRight 1 0 0 = true ∧ plusMat 1 0 0 = true ∧ evolutionMat 1 0 0 = true ∧
      evolutionMat 1 0 1 = true ∧ evolutionMat 1 1 0 = true ∧ evolutionMat 1 1 1 = false) ∧
    (∀ i < 2, ∀ j < 2, shiftLeft 2 i j = shiftRight 2 i j) ∧
    (∀ p < 4, ∀ q < 4, gridMat 2 .hLeft p q = gridMat 2 .hRight p q ∧ gridMat 2 .vUp p q = gridMat 2 .vDown p q ∧
      plusMat 2 p q = (p == q)) ∧
    (∀ p < 4, ∀ q < 4, evolutionMat 2 p q = (p == q) ∧ evolutionMat 2 p (4 + q) = (p == q) ∧
      evolutionMat 2 (4 + p) q = (p == q) ∧ evolutionMat 2 (4 + p) (4 + q) = false) ∧
    ∀ N, 3 ≤ N →
      (∀ r < N, ∀ c < N, [(r, c), (r, (c + N - 1) % N), (r, (c + 1) % N), ((r + N - 1) % N, c), ((r + 1) % N, c)].Nodup) ∧
      ∀ p < N * N, ((List.range (N * N)).filter (plusMat N p)).length = 5

/-- Rule R235: T·[x; z] = [A·x + z; x]. -/
def Obligations.EvolutionUpdateRule : Prop :=
  ∀ (N : Nat) (v : GfVec) (p : Nat), p < N * N →
    mulVec (2 * (N * N)) (evolutionMat N) v p = (mulVec (N * N) (plusMat N) v p ^^ v (N * N + p)) ∧
      mulVec (2 * (N * N)) (evolutionMat N) v (N * N + p) = v p

/-- Rule R236: T is invertible, with inverse [[0, I],[I, A]]. -/
def Obligations.EvolutionIsReversible : Prop :=
  ∀ N : Nat, 1 ≤ N → ∀ i < 2 * (N * N), ∀ k < 2 * (N * N),
    xorSum (2 * (N * N))
        (fun j => evolutionMat N i j && blockMat (N * N) zeroMat identityMat identityMat (plusMat N) j k) = (i == k) ∧
      xorSum (2 * (N * N))
        (fun j => blockMat (N * N) zeroMat identityMat identityMat (plusMat N) i j && evolutionMat N j k) = (i == k)

/-! ## ENCODE, STEP, RUN -/

/-- Rules R21, R250, R251: ENCODE of a vector of even length 2M that fits completes with HIST row 0 the M codes and
zeros, HROWS = 1, HM = M; the other rows, VREG, VLEN and everything else are unchanged. -/
def Obligations.EncodeResult : Prop :=
  ∀ (s : State) (k : VNum) (M : Nat), (vlenOf s k).toNat = 2 * M → 2 * M ≤ s.cfg.dmax → 1 ≤ s.hist.length →
    ∃ t, exec (.encode k) s = .next t ∧
      t = { s with
        hist := t.hist, hrows := 1, hm := BitVec.ofNat 32 M, errcode := 0, done := true, busy := false } ∧
      t.hist.length = s.hist.length ∧
      (∀ p, (histCode t 0 p).toNat =
        if p < M then (vregBit s k p).toNat + 2 * (vregBit s k (M + p)).toNat else 0) ∧
      ∀ r, r ≠ 0 → t.hist[r]? = s.hist[r]?

/-- Rule R253: the code written for a cell gives back both bits of the vector. -/
def Obligations.EncodeRoundTrip : Prop :=
  ∀ (s : State) (k : VNum) (M p : Nat), (vlenOf s k).toNat = 2 * M → 2 * M ≤ s.cfg.dmax → 1 ≤ s.hist.length → p < M →
    ∃ t, exec (.encode k) s = .next t ∧
      (histCode t 0 p).getLsbD 0 = vregBit s k p ∧ (histCode t 0 p).getLsbD 1 = vregBit s k (M + p)

/-- Rules R272, R273: where N, MROWS, MCOLS and VLEN[k] fit, STEP completes with VREG[k] the product of MAT and the old
state, zeros from D on, HIST row 0 the codes of the new state, HROWS = 1 and HM = N²; everything else is unchanged. -/
def Obligations.StepResult : Prop :=
  ∀ (s : State) (N : Nat) (k : VNum), SizeIs N s → DimsAre (2 * (N * N)) k s → 1 ≤ s.hist.length →
    ∃ t, exec (.step k) s = .next t ∧
      t = { s with
        vreg := t.vreg, hist := t.hist, hrows := 1, hm := BitVec.ofNat 32 (N * N)
        errcode := 0, done := true, busy := false } ∧
      (∀ i, vregBit t k i =
        (decide (i < 2 * (N * N)) && mulVec (2 * (N * N)) (matBit s) (vregBit s k) i)) ∧
      (∀ k', k' ≠ k → t.vreg.get k' = s.vreg.get k') ∧
      t.hist.length = s.hist.length ∧
      (∀ p, histCode t 0 p =
        if p < N * N then pauliCode (vregBit t k p) (vregBit t k (N * N + p)) else 0) ∧
      ∀ r, r ≠ 0 → t.hist[r]? = s.hist[r]?

/-- Rules R274, R277: where N, T, MROWS, MCOLS and VLEN[k] fit, RUN completes with HIST row r, for every r ≤ T, the
codes of the state after r applications of MAT and zeros, VREG[k] the state after T of them and zeros, HROWS = T + 1
and HM = N²; the rows above T and everything else are unchanged. -/
def Obligations.RunResult : Prop :=
  ∀ (s : State) (N T : Nat) (k : VNum), SizeIs N s → StepsAre T s → DimsAre (2 * (N * N)) k s →
    s.hist.length = s.cfg.hdepth →
    let S := powerVec (2 * (N * N)) (matBit s) (vregBit s k)
    ∃ t, exec (.run k) s = .next t ∧
      t = { s with
        vreg := t.vreg, hist := t.hist, hrows := BitVec.ofNat 32 (T + 1), hm := BitVec.ofNat 32 (N * N)
        errcode := 0, done := true, busy := false } ∧
      (∀ i, vregBit t k i = (decide (i < 2 * (N * N)) && S T i)) ∧
      (∀ k', k' ≠ k → t.vreg.get k' = s.vreg.get k') ∧
      t.hist.length = s.hist.length ∧
      (∀ r, r ≤ T → ∀ p, histCode t r p = if p < N * N then pauliCode (S r p) (S r (N * N + p)) else 0) ∧
      ∀ r, T < r → t.hist[r]? = s.hist[r]?

/-- Frame of ENCODE, STEP and RUN, with or without an error: ENCODE changes no vector register, STEP and RUN only
VREG[k], none of them VLEN, MAT, MROWS or MCOLS; ENCODE and STEP leave every history row but row 0, RUN every row
above T. -/
def Obligations.HistoryCommandsFrame : Prop :=
  ∀ (s t : State) (k : VNum),
    (exec (.encode k) s = .next t →
      t = { s with
        hist := t.hist, hrows := t.hrows, hm := t.hm, errcode := t.errcode, done := t.done, busy := t.busy } ∧
      t.hist.length = s.hist.length ∧ ∀ r, r ≠ 0 → t.hist[r]? = s.hist[r]?) ∧
    (exec (.step k) s = .next t →
      t = { s with
        vreg := t.vreg, hist := t.hist, hrows := t.hrows, hm := t.hm
        errcode := t.errcode, done := t.done, busy := t.busy } ∧
      (∀ k', k' ≠ k → t.vreg.get k' = s.vreg.get k') ∧
      t.hist.length = s.hist.length ∧ ∀ r, r ≠ 0 → t.hist[r]? = s.hist[r]?) ∧
    (exec (.run k) s = .next t →
      t = { s with
        vreg := t.vreg, hist := t.hist, hrows := t.hrows, hm := t.hm
        errcode := t.errcode, done := t.done, busy := t.busy } ∧
      (∀ k', k' ≠ k → t.vreg.get k' = s.vreg.get k') ∧
      t.hist.length = s.hist.length ∧ ∀ r, stepCount s < r → t.hist[r]? = s.hist[r]?)

/-- Rule R275: from the same state STEP leaves VREG[k] as RUN with TREG = 1 does, and its history row 0 is RUN's
row 1. -/
def Obligations.StepIsOneIterationOfRun : Prop :=
  ∀ (s : State) (N : Nat) (k : VNum), SizeIs N s → DimsAre (2 * (N * N)) k s → 2 ≤ s.cfg.hdepth →
    s.hist.length = s.cfg.hdepth →
    ∃ t u, exec (.step k) s = .next t ∧ exec (.run k) { s with treg := 1 } = .next u ∧
      t.vreg = u.vreg ∧ t.hist[0]? = u.hist[1]?

/-- Rule R274, corner cases: a second RUN continues where the first ended. A RUN of T steps and then one of T' leave
VREG[k] as one RUN of T + T' does, and the second's row 0 repeats the first's row T. -/
def Obligations.RunContinues : Prop :=
  ∀ (s : State) (N T T' : Nat) (k : VNum), SizeIs N s → DimsAre (2 * (N * N)) k s → s.cfg.ok →
    T + T' + 1 ≤ s.cfg.hdepth → s.hist.length = s.cfg.hdepth →
    ∃ t u w, exec (.run k) { s with treg := BitVec.ofNat 32 T } = .next t ∧
      exec (.run k) { t with treg := BitVec.ofNat 32 T' } = .next u ∧
      exec (.run k) { s with treg := BitVec.ofNat 32 (T + T') } = .next w ∧
      (∀ k' i, vregBit u k' i = vregBit w k' i) ∧ ∀ p, histCode u 0 p = histCode t T p

/-- Rules R235, R276: with MAT holding T(N), a STEP gives each cell as its new z bit its old x bit, and as its new x
bit the sum of its old z bit and of the old x bits of the cell and its four neighbours on the periodic grid. -/
def Obligations.StepOnTheBuiltOperator : Prop :=
  ∀ (s : State) (N : Nat) (k : VNum), SizeIs N s → DimsAre (2 * (N * N)) k s → 1 ≤ s.hist.length →
    (∀ i < 2 * (N * N), ∀ j < 2 * (N * N), matBit s i j = evolutionMat N i j) →
    ∃ t, exec (.step k) s = .next t ∧
      ∀ r c, r < N → c < N →
        vregBit t k (N * N + (r * N + c)) = vregBit s k (r * N + c) ∧
        vregBit t k (r * N + c) =
          (vregBit s k (r * N + c) ^^ vregBit s k (r * N + (c + N - 1) % N) ^^ vregBit s k (r * N + (c + 1) % N) ^^
            vregBit s k ((r + N - 1) % N * N + c) ^^ vregBit s k ((r + 1) % N * N + c) ^^
            vregBit s k (N * N + (r * N + c)))

/-! ## The host port -/

/-- Rule R83: paddr[1:0] are ignored by reads and writes. -/
def Obligations.LowAddressBitsIgnored : Prop :=
  ∀ (s : State) (a : Offset) (v : Word),
    hostRead (a &&& 0xFFC) s = hostRead a s ∧ hostWrite (a &&& 0xFFC) v s = hostWrite a v s

/-- Rules R90, R101: no read changes a register or a memory; it returns one value, and a drawn read advances the draw
counter, which is the model's own (log 5). -/
def Obligations.ReadsChangeNoState : Prop :=
  ∀ (s : State) (a : Offset), s.rstN = true →
    ∃ v n, hostRead a s = { s with reads := v :: s.reads, draws := n } ∧
      (s.busy = true → ¬ readableWhileBusy a → v = Config.busyRead s.draws ∧ n = s.draws + 1) ∧
      (s.busy = false ∨ readableWhileBusy a → n = s.draws)

/-- Rules R33, R34, R42 to R49, R53, R54, R90: while idle a read of each plain register returns it, and a read of ID or
PARAM returns its constant while a command runs too. -/
def Obligations.IdleReadsReturnRegisters : Prop :=
  ∀ s : State, s.cfg.ok → s.rstN = true →
    (s.busy = false →
      ∀ p ∈ storedRegisters s ++ readOnlyRegisters s, hostRead p.1 s = { s with reads := p.2 :: s.reads }) ∧
    hostRead 0x000 s = { s with reads := 0x47463201 :: s.reads } ∧
    hostRead 0x004 s = { s with reads := BitVec.ofNat 32 (s.cfg.hdepth * 65536 + s.cfg.nmax) :: s.reads }

/-- Rules R35 to R41, R47, R90: the bits a read of STATUS and CTRL returns, busy or idle, so that a poll of STATUS while
a command runs returns 1 in bit 0, and the bits a read of VSEL returns while idle; the reserved bits are 0 (rule
R86). -/
def Obligations.StatusCtrlVselReads : Prop :=
  ∀ s : State, s.rstN = true →
    (∃ st : Word, hostRead 0x00C s = { s with reads := st :: s.reads } ∧
      ∀ i, st.getLsbD i =
        if i = 0 then s.busy else if i = 1 then s.done else if i = 2 then decide (s.errcode ≠ 0)
        else if i = 3 then s.ovr else if i = 4 then s.range
        else if 8 ≤ i ∧ i < 12 then s.errcode.getLsbD (i - 8) else false) ∧
    (∃ ct : Word, hostRead 0x008 s = { s with reads := ct :: s.reads } ∧
      ∀ i, ct.getLsbD i = if i = 0 then s.ie else false) ∧
    (s.busy = false → ∃ vs : Word, hostRead 0x040 s = { s with reads := vs :: s.reads } ∧
      ∀ i, vs.getLsbD i = if i < 2 then s.vsel.getLsbD i else false)

/-- Rules R43 to R49, R53, R91, R102: while idle a write of a stored register changes exactly it, and a read after it
returns the value written. -/
def Obligations.StoredRegistersReadBack : Prop :=
  ∀ (s : State) (v : Word), s.rstN = true → s.busy = false →
    (hostWrite 0x014 v s = { s with nreg := v } ∧ hostWrite 0x018 v s = { s with treg := v } ∧
      hostWrite 0x01C v s = { s with mrows := v } ∧ hostWrite 0x020 v s = { s with mcols := v } ∧
      hostWrite 0x030 v s = { s with matrow := v } ∧ hostWrite 0x034 v s = { s with matcol := v } ∧
      hostWrite 0x044 v s = { s with vidx := v } ∧ hostWrite 0x060 v s = { s with hrow := v } ∧
      hostWrite 0x064 v s = { s with hidx := v } ∧ hostWrite 0x050 v s = { s with vlen := s.vlen.set s.vsel v }) ∧
    ∀ p ∈ storedRegisters s, (hostRead p.1 (hostWrite p.1 v s)).reads = v :: s.reads

/-- Rules R35, R47, R86, R91, R102: busy or idle CTRL keeps bit 0 of what is written, and while idle VSEL keeps bits
[1:0]; the reserved bits read 0, and nothing else changes. -/
def Obligations.CtrlAndVselWrites : Prop :=
  ∀ (s : State) (v : Word), s.rstN = true →
    (hostWrite 0x008 v s = { s with ie := v.getLsbD 0 } ∧
      (hostRead 0x008 (hostWrite 0x008 v s)).reads = (v &&& 1) :: s.reads) ∧
    (s.busy = false →
      hostWrite 0x040 v s = { s with vsel := v.extractLsb' 0 2 } ∧
        (hostRead 0x040 (hostWrite 0x040 v s)).reads = (v &&& 3) :: s.reads)

/-- Rules R36, R37, R39, R40, R41, R91: a write of STATUS, busy or not, clears DONE, OVR and RANGE where bit 1, 3 or 4
is 1, and does nothing else; no write sets them or touches BUSY and ERRCODE. -/
def Obligations.StatusWriteOneToClear : Prop :=
  ∀ (s : State) (v : Word), s.rstN = true →
    hostWrite 0x00C v s =
      { s with
        done := if v.getLsbD 1 then false else s.done
        ovr := if v.getLsbD 3 then false else s.ovr
        range := if v.getLsbD 4 then false else s.range }

/-- Rules R85, R91: reserved offsets read 0 and ignore writes while idle, and so do writes to the read-only offsets. -/
def Obligations.ReservedAndReadOnlyOffsets : Prop :=
  ∀ (s : State) (a : Offset) (v : Word), s.rstN = true → s.busy = false →
    ((0x024 ≤ a.toNat ∧ a.toNat < 0x030) ∨ (0x054 ≤ a.toNat ∧ a.toNat < 0x060) ∨ 0x078 ≤ a.toNat →
      hostRead a s = { s with reads := 0 :: s.reads } ∧ hostWrite a v s = s) ∧
    (a.toNat < 0x008 ∨ (0x068 ≤ a.toNat ∧ a.toNat < 0x078) → hostWrite a v s = s)

/-- Rules R52, R99: no host write changes HIST; only MATELEM and MATWORD change MAT, only VELEM and VWORD a vector
register. -/
def Obligations.HostWritesReachMemoriesOnlyThroughWindows : Prop :=
  ∀ (s : State) (a : Offset) (v : Word),
    (hostWrite a v s).hist = s.hist ∧
      (¬ (0x038 ≤ a.toNat ∧ a.toNat < 0x040) → (hostWrite a v s).mat = s.mat) ∧
      (¬ (0x048 ≤ a.toNat ∧ a.toNat < 0x050) → (hostWrite a v s).vreg = s.vreg)

/-- Rules R92, R100: MATELEM inside the matrix stores bit 0 of the word in its one element and reads back that element;
outside it a write only sets RANGE and a read returns 0. -/
def Obligations.MatElemWindow : Prop :=
  ∀ (s : State) (v : Word), s.rstN = true → s.busy = false →
    (s.matrow.toNat < s.cfg.dmax → s.matcol.toNat < s.cfg.dmax →
      ∃ t, hostWrite 0x038 v s = t ∧ t = { s with mat := t.mat } ∧
        (∀ i j, i < s.cfg.dmax → j < s.cfg.dmax → matBit t i j =
          if i = s.matrow.toNat ∧ j = s.matcol.toNat then v.getLsbD 0 else matBit s i j) ∧
        hostRead 0x038 s =
          { s with reads := (if matBit s s.matrow.toNat s.matcol.toNat then 1 else 0) :: s.reads } ∧
        (hostRead 0x038 t).reads = (v &&& 1) :: s.reads) ∧
    (s.cfg.dmax ≤ s.matrow.toNat ∨ s.cfg.dmax ≤ s.matcol.toNat →
      hostWrite 0x038 v s = { s with range := true } ∧ hostRead 0x038 s = { s with reads := 0 :: s.reads })

/-- Rules R88, R93: bit j of MATWORD is the element at column 32w + j of row MATROW, with w = MATCOL >> 5; elements
outside the matrix read 0 and are not written; a word wholly outside only sets RANGE. -/
def Obligations.MatWordWindow : Prop :=
  ∀ (s : State) (v : Word), s.rstN = true → s.busy = false →
    let base := 32 * (s.matcol.toNat / 32)
    (∃ x : Word, hostRead 0x03C s = { s with reads := x :: s.reads } ∧
      ∀ j < 32, x.getLsbD j =
        (decide (s.matrow.toNat < s.cfg.dmax ∧ base + j < s.cfg.dmax) && matBit s s.matrow.toNat (base + j))) ∧
    (s.matrow.toNat < s.cfg.dmax → base < s.cfg.dmax →
      ∃ t, hostWrite 0x03C v s = t ∧ t = { s with mat := t.mat } ∧
        ∀ i j, i < s.cfg.dmax → j < s.cfg.dmax → matBit t i j =
          if i = s.matrow.toNat ∧ base ≤ j ∧ j < base + 32 then v.getLsbD (j - base) else matBit s i j) ∧
    (s.cfg.dmax ≤ s.matrow.toNat ∨ s.cfg.dmax ≤ base → hostWrite 0x03C v s = { s with range := true })

/-- Rules R88, R94, R95, R100: VELEM stores and reads one bit of VREG[VSEL] at VIDX, VWORD 32 of them from
32·(VIDX >> 5); outside the register a write only sets RANGE and elements read 0; VLEN does not change. -/
def Obligations.VectorWindows : Prop :=
  ∀ (s : State) (v : Word), s.rstN = true → s.busy = false →
    let base := 32 * (s.vidx.toNat / 32)
    (s.vidx.toNat < s.cfg.dmax →
      (∃ t, hostWrite 0x048 v s = t ∧ t = { s with vreg := t.vreg } ∧
        (∀ k i, vregBit t k i = if k = s.vsel ∧ i = s.vidx.toNat then v.getLsbD 0 else vregBit s k i) ∧
        (hostRead 0x048 t).reads = (v &&& 1) :: s.reads) ∧
      hostRead 0x048 s = { s with reads := (if vregBit s s.vsel s.vidx.toNat then 1 else 0) :: s.reads }) ∧
    (s.cfg.dmax ≤ s.vidx.toNat →
      hostWrite 0x048 v s = { s with range := true } ∧ hostRead 0x048 s = { s with reads := 0 :: s.reads }) ∧
    (∃ x : Word, hostRead 0x04C s = { s with reads := x :: s.reads } ∧
      ∀ j < 32, x.getLsbD j = (decide (base + j < s.cfg.dmax) && vregBit s s.vsel (base + j))) ∧
    (base < s.cfg.dmax →
      ∃ t, hostWrite 0x04C v s = t ∧ t = { s with vreg := t.vreg } ∧
        ∀ k i, vregBit t k i =
          if k = s.vsel ∧ base ≤ i ∧ i < base + 32 ∧ i < s.cfg.dmax then v.getLsbD (i - base) else vregBit s k i) ∧
    (s.cfg.dmax ≤ base → hostWrite 0x04C v s = { s with range := true })

/-- Rules R89, R97, R98: HCODE returns the code at (HROW, HIDX), and bits [2j+1:2j] of HWORD the code of cell 16w + j of
row HROW, with w = HIDX >> 4; both give 0 outside HIST. -/
def Obligations.HistoryWindows : Prop :=
  ∀ s : State, s.rstN = true → s.busy = false →
    ∃ x y : Word, hostRead 0x068 s = { s with reads := x :: s.reads } ∧
      hostRead 0x06C s = { s with reads := y :: s.reads } ∧
      x.toNat = (if s.hrow.toNat < s.cfg.hdepth ∧ s.hidx.toNat < s.cfg.cmax
        then (histCode s s.hrow.toNat s.hidx.toNat).toNat else 0) ∧
      ∀ j < 16, y.extractLsb' (2 * j) 2 =
        if s.hrow.toNat < s.cfg.hdepth ∧ 16 * (s.hidx.toNat / 16) + j < s.cfg.cmax
        then histCode s s.hrow.toNat (16 * (s.hidx.toNat / 16) + j) else 0

/-- Rules R11, R80: for a window at a 4096-byte aligned BASE, exactly the addresses from BASE to BASE + 0xFFF have an
offset, and it is the address less BASE. The model's accesses carry that offset (log 2). -/
def Obligations.BusOffsets : Prop :=
  ∀ base addr : Nat, base % 4096 = 0 →
    (base ≤ addr ∧ addr < base + 4096 → ∃ o : Offset, busOffset base addr = some o ∧ o.toNat = addr % 4096) ∧
      (addr < base ∨ base + 4096 ≤ addr → busOffset base addr = none)

/-! ## Flags, interrupt, reset -/

/-- Rules R310, R311: irq is DONE and IE. It follows IE at a completion, is 0 after an issue and after a write of 1 to
DONE, and follows DONE when IE is set; masking leaves DONE. -/
def Obligations.InterruptLevel : Prop :=
  ∀ s : State,
    irq s = (s.done && s.ie) ∧
    (∀ i t, exec i s = .next t → irq t = s.ie) ∧
    (s.rstN = true →
      (∀ v, s.busy = false → irq (hostWrite 0x010 v s) = false) ∧
      (∀ v, v.getLsbD 1 = true → irq (hostWrite 0x00C v s) = false) ∧
      (∀ v, irq (hostWrite 0x008 v s) = (s.done && v.getLsbD 0) ∧ (hostWrite 0x008 v s).done = s.done))

/-- Rules R39, R40, R91: over every step, OVR is set only by a write ignored because BUSY = 1 and RANGE only by a write
of a window data register; each is cleared only by a write of STATUS with its bit 1, or by reset. -/
def Obligations.StickyFlags : Prop :=
  ∀ s t : State, step s = .next t →
    (s.ovr = false → t.ovr = true →
      ∃ a v rest, s.inputs = .write a v :: rest ∧ s.busy = true ∧ ¬ ctrlOrStatus a) ∧
    (s.ovr = true → t.ovr = false →
      ∃ rest, s.inputs = .reset false :: rest ∨
        ∃ a v, s.inputs = .write a v :: rest ∧ 0x00C ≤ a.toNat ∧ a.toNat < 0x010 ∧ v.getLsbD 3 = true) ∧
    (s.range = false → t.range = true →
      ∃ a v rest, s.inputs = .write a v :: rest ∧ s.busy = false ∧
        ((0x038 ≤ a.toNat ∧ a.toNat < 0x040) ∨ (0x048 ≤ a.toNat ∧ a.toNat < 0x050))) ∧
    (s.range = true → t.range = false →
      ∃ rest, s.inputs = .reset false :: rest ∨
        ∃ a v, s.inputs = .write a v :: rest ∧ 0x00C ≤ a.toNat ∧ a.toNat < 0x010 ∧ v.getLsbD 4 = true)

/-- Rules R57, R344: right after reset, in every configuration, the block is idle with the interrupt masked and every
register of rule R57 at its value; nothing runs until the host issues a command, and every command that reads N
fails with SIZE (2). -/
def Obligations.ResetValues : Prop :=
  ∀ (c : Config) (n : Nat),
    let s := State.resetOf c n
    (s.busy = false ∧ s.done = false ∧ s.ovr = false ∧ s.range = false ∧ s.errcode = 0 ∧ s.ie = false ∧
      irq s = false ∧ s.lastcmd = 0 ∧ s.nreg = 0 ∧ s.treg = 0 ∧ s.mrows = 0 ∧ s.mcols = 0 ∧ s.matrow = 0 ∧
      s.matcol = 0 ∧ s.vsel = 0 ∧ s.vidx = 0 ∧ (∀ k, vlenOf s k = 0) ∧ s.hrow = 0 ∧ s.hidx = 0 ∧ s.hrows = 0 ∧
      s.hm = 0) ∧
    step s = .next s ∧
    ∀ i t, i = .shiftgenL ∨ i = .shiftgenR ∨ (∃ op b, i = opacc op b) ∨ i = .build ∨ (∃ k, i = .step k) ∨
      (∃ k, i = .run k) → exec i s = .next t → t.errcode = 2

/-- Rules R340, R343: driving rst_n low abandons a command in flight and leaves every register at its reset value, with
DONE and irq 0; while it is low no host access and no engine turn changes anything; raising it ends the reset. That
the values are taken when rst_n falls is the model's choice (log 8). -/
def Obligations.ResetHeld : Prop :=
  ∀ s : State,
    let t := driveReset false s
    (t = { State.resetOf s.cfg (s.resets + 1) with
      rstN := false, inputs := s.inputs, reads := s.reads, draws := s.draws }) ∧
    t.busy = false ∧ irq t = false ∧
    (∀ u : State, u.rstN = false →
      (∀ a, hostRead a u = u) ∧ (∀ a v, hostWrite a v u = u) ∧ engineTurn u = .next u) ∧
    driveReset true t = { t with rstN := true }

/-! ## Invariants -/

/-- The invariant of Safety.lean (rules R50 to R55, R161, R301) holds right after reset, in every configuration
within the ranges of rules R7 and R10, so in `State.reset`, whose configuration is the model's choice (log 1). -/
def Obligations.InvariantAtReset : Prop :=
  (∀ (c : Config) (n : Nat), c.ok → (State.resetOf c n).Inv) ∧ State.reset.Inv

/-- Every step keeps the invariant of Safety.lean: the memories stay in canonical form and of their sizes, the codes
legal, a command in flight keeps its word and neither DONE nor an error, none is in flight and DONE is 0 while reset is held,
and HROWS and HM stay within HIST. The clause about what BUSY and DONE are while rst_n is low is the model's choice
(log 8): rule R340 gives register values only for when reset ends, and irq = 0 while it is held. -/
def Obligations.StepKeepsTheInvariant : Prop :=
  ∀ s t : State, s.Inv → step s = .next t → t.Inv

/-- Rules R7, R10, R33, R34: no step changes a parameter, so ID and PARAM are constants; and no step stops. -/
def Obligations.ParametersAreConstant : Prop :=
  ∀ s : State, ∃ t, step s = .next t ∧ t.cfg = s.cfg
end

