-- ==== Sys2Proof/Laws/Grid.lean ====
section
/-! SUPPORT. The laws of the GF(2) operations: XOR sums, lists of bits, cyclic indices, codes, and which addresses of
MAT a matrix covers. -/

namespace Sys2Proof.Machine

open Sys2Proof

/-! ## XOR sums -/

@[simp] theorem xorSum_zero (f : Nat → Bool) : xorSum 0 f = false := rfl

theorem xorSum_succ (n : Nat) (f : Nat → Bool) : xorSum (n + 1) f = (xorSum n f ^^ f n) := rfl

theorem xorSum_congr {n : Nat} {f g : Nat → Bool} (h : ∀ j < n, f j = g j) : xorSum n f = xorSum n g := by
  induction n with
  | zero => rfl
  | succ n ih => rw [xorSum_succ, xorSum_succ, ih fun j hj => h j (Nat.lt_succ_of_lt hj), h n (Nat.lt_succ_self n)]

theorem xorSum_xor (n : Nat) (f g : Nat → Bool) :
    xorSum n (fun j => f j ^^ g j) = (xorSum n f ^^ xorSum n g) := by
  induction n with
  | zero => rfl
  | succ n ih =>
    rw [xorSum_succ, xorSum_succ, xorSum_succ, ih]
    cases xorSum n f <;> cases xorSum n g <;> cases f n <;> cases g n <;> rfl

@[simp] theorem xorSum_false (n : Nat) : xorSum n (fun _ => false) = false := by
  induction n with
  | zero => rfl
  | succ n ih => rw [xorSum_succ, ih]; rfl

/-- A sum in which only the term at `q` can be 1. -/
theorem xorSum_single (n q : Nat) (f : Nat → Bool) :
    xorSum n (fun j => (j == q) && f j) = (decide (q < n) && f q) := by
  induction n with
  | zero => simp
  | succ n ih =>
    rw [xorSum_succ, ih]
    rcases Nat.lt_trichotomy q n with h | h | h
    · simp [h, beq_false_of_ne (show n ≠ q by omega), show q < n + 1 by omega]
    · subst h; simp
    · simp [show ¬ q < n by omega, beq_false_of_ne (show n ≠ q by omega), show ¬ q < n + 1 by omega]

theorem xorSum_add (m n : Nat) (f : Nat → Bool) :
    xorSum (m + n) f = (xorSum m f ^^ xorSum n fun j => f (m + j)) := by
  induction n with
  | zero => simp
  | succ n ih =>
    rw [show m + (n + 1) = (m + n) + 1 by omega, xorSum_succ, ih, xorSum_succ]
    cases xorSum m f <;> cases xorSum n (fun j => f (m + j)) <;> cases f (m + n) <;> rfl

theorem mulVec_congr {n : Nat} {M P : GfMat} {v w : GfVec} {i : Nat} (hM : ∀ j < n, M i j = P i j)
    (hv : ∀ j < n, v j = w j) : mulVec n M v i = mulVec n P w i :=
  xorSum_congr fun j hj => by rw [hM j hj, hv j hj]

/-! ## Lists of bits and codes -/

theorem getD_map_range {α : Type} (n i : Nat) (f : Nat → α) (z : α) :
    ((List.range n).map f).getD i z = if i < n then f i else z := by
  by_cases h : i < n <;> simp [List.getD, h]

theorem listBit_map_range (n i : Nat) (f : GfVec) : listBit ((List.range n).map f) i = (decide (i < n) && f i) := by
  unfold listBit
  rw [getD_map_range]
  by_cases h : i < n <;> simp [h]

@[simp] theorem applyMat_length (D : Nat) (M : GfMat) (S : List Bool) : (applyMat D M S).length = D := by
  simp [applyMat]

theorem listBit_applyMat (D : Nat) (M : GfMat) (S : List Bool) (i : Nat) :
    listBit (applyMat D M S) i = (decide (i < D) && mulVec D M (listBit S) i) :=
  listBit_map_range D i _

theorem applyMat_congr {D : Nat} {M P : GfMat} {S : List Bool} (h : ∀ i < D, ∀ j < D, M i j = P i j) :
    applyMat D M S = applyMat D P S := by
  refine List.map_congr_left fun i hi => ?_
  exact mulVec_congr (h i (List.mem_range.1 hi)) fun _ _ => rfl

@[simp] theorem applyTimes_length {D : Nat} {S : List Bool} (M : GfMat) (k : Nat) (h : S.length = D) :
    (applyTimes D M k S).length = D := by
  induction k generalizing S with
  | zero => exact h
  | succ k ih => exact ih (applyMat_length D M S)

theorem applyTimes_succ (D : Nat) (M : GfMat) (k : Nat) (S : List Bool) :
    applyTimes D M (k + 1) S = applyMat D M (applyTimes D M k S) := by
  induction k generalizing S with
  | zero => rfl
  | succ k ih => exact ih (applyMat D M S)

@[simp] theorem cellCodes_length (M : Nat) (v : GfVec) : (cellCodes M v).length = M := by simp [cellCodes]

theorem cellCodes_getD (M : Nat) (v : GfVec) (p : Nat) :
    (cellCodes M v).getD p 0 = if p < M then pauliCode (v p) (v (M + p)) else 0 :=
  getD_map_range M p _ 0

/-- Bit 0 of a code is its x bit, bit 1 its z bit (rule R21). -/
theorem pauliCode_bits (x z : Bool) : (pauliCode x z).getLsbD 0 = x ∧ (pauliCode x z).getLsbD 1 = z := by
  cases x <;> cases z <;> decide

/-! ## Cyclic indices -/

theorem cyclic_lt (a : Int) {N : Nat} (h : 1 ≤ N) : cyclic a N < N := by
  have h1 := Int.emod_nonneg a (b := (N : Int)) (by omega)
  have h2 := Int.emod_lt_of_pos a (b := (N : Int)) (by omega)
  unfold cyclic
  omega

/-- `(i − 1) mod N` (rule R15). -/
theorem cyclic_pred {i N : Nat} (h : i < N) : cyclic ((i : Int) - 1) N = if i = 0 then N - 1 else i - 1 := by
  unfold cyclic
  split
  · subst i
    have e : ((0 : Nat) : Int) - 1 = ((N - 1 : Nat) : Int) + (N : Int) * (-1) := by omega
    rw [e, Int.add_mul_emod_self_left, Int.emod_eq_of_lt (by omega) (by omega)]
    omega
  · rw [Int.emod_eq_of_lt (by omega) (by omega)]
    omega

/-- `(i + 1) mod N` (rule R15). -/
theorem cyclic_succ {i N : Nat} (h : i < N) : cyclic ((i : Int) + 1) N = if i + 1 = N then 0 else i + 1 := by
  unfold cyclic
  split
  · next he => rw [show ((i : Int) + 1) = (N : Int) by omega, Int.emod_self]; rfl
  · rw [Int.emod_eq_of_lt (by omega) (by omega)]
    omega

/-! ## Addresses of MAT -/

/-- Rows do not overlap: an element's row and column follow from its address. -/
theorem address_inj {D i j i' j' : Nat} (hj : j < D) (hj' : j' < D) : i * D + j = i' * D + j' ↔ i = i' ∧ j = j' := by
  constructor
  · intro h
    have hi : i = i' := by
      have h1 : (i * D + j) / D = i := by
        rw [Nat.mul_comm, Nat.mul_add_div (by omega), Nat.div_eq_of_lt hj, Nat.add_zero]
      have h2 : (i' * D + j') / D = i' := by
        rw [Nat.mul_comm, Nat.mul_add_div (by omega), Nat.div_eq_of_lt hj', Nat.add_zero]
      rw [← h1, ← h2, h]
    exact ⟨hi, by subst hi; omega⟩
  · rintro ⟨rfl, rfl⟩; rfl

theorem address_lt {D i j : Nat} (hi : i < D) (hj : j < D) : i * D + j < D * D := by
  have : (i + 1) * D ≤ D * D := Nat.mul_le_mul_right D hi
  rw [Nat.add_mul] at this
  omega

theorem mem_onesOf {dmax ro co K a : Nat} {M : GfMat} :
    a ∈ onesOf dmax ro co K M ↔ ∃ p < K, ∃ q < K, M p q = true ∧ (ro + p) * dmax + (co + q) = a := by
  simp only [onesOf, List.mem_flatMap, List.mem_range, List.mem_map, List.mem_filter]
  constructor
  · rintro ⟨p, hp, q, ⟨hq, hm⟩, rfl⟩
    exact ⟨p, hp, q, hq, hm, rfl⟩
  · rintro ⟨p, hp, q, hq, hm, rfl⟩
    exact ⟨p, hp, q, ⟨hq, hm⟩, rfl⟩

/-- Which elements of MAT a K×K matrix at (ro, co) covers with a 1. -/
theorem mem_onesOf_address {dmax ro co K i j : Nat} {M : GfMat} (hc : co + K ≤ dmax) (hj : j < dmax) :
    i * dmax + j ∈ onesOf dmax ro co K M ↔
      (ro ≤ i ∧ i < ro + K ∧ co ≤ j ∧ j < co + K ∧ M (i - ro) (j - co) = true) := by
  rw [mem_onesOf]
  constructor
  · rintro ⟨p, hp, q, hq, hm, h⟩
    obtain ⟨rfl, rfl⟩ := (address_inj (by omega) hj).1 h
    refine ⟨by omega, by omega, by omega, by omega, ?_⟩
    rwa [Nat.add_sub_cancel_left, Nat.add_sub_cancel_left]
  · rintro ⟨h1, h2, h3, h4, hm⟩
    exact ⟨i - ro, by omega, j - co, by omega, hm, by
      rw [Nat.add_sub_cancel' h1, Nat.add_sub_cancel' h3]⟩

theorem onesOf_lt {dmax ro co K a : Nat} {M : GfMat} (hr : ro + K ≤ dmax) (hc : co + K ≤ dmax)
    (ha : a ∈ onesOf dmax ro co K M) : a < dmax * dmax := by
  obtain ⟨p, hp, q, hq, -, rfl⟩ := mem_onesOf.1 ha
  exact address_lt (by omega) (by omega)

end Sys2Proof.Machine
end

