-- ==== Sys2Proof/Laws/Memory.lean ====
section
/-! SUPPORT. The laws of memories: a read after a write, a read after writing a list of addresses, a read of a memory
loaded from a list, and that every operation keeps the canonical form. -/

namespace Sys2Proof.Machine

open Sys2Proof

variable {α : Type}

/-! ## Lists of cells -/

theorem findCell_putCell (a b : Nat) (v : α) (l : List (Nat × α)) :
    findCell b (putCell a v l) = if a = b then some v else findCell b l := by
  induction l with
  | nil => simp [putCell, findCell]
  | cons p t ih =>
    obtain ⟨c, w⟩ := p
    simp only [putCell]
    split
    · simp [findCell]
    · split
      · subst c
        simp only [findCell]
        split <;> rfl
      · simp only [findCell, ih]
        split
        · subst c; rw [if_neg ‹_›]
        · rfl

theorem findCell_dropCell (a b : Nat) (l : List (Nat × α)) :
    findCell b (dropCell a l) = if a = b then none else findCell b l := by
  induction l with
  | nil => simp [dropCell, findCell]
  | cons p t ih =>
    obtain ⟨c, w⟩ := p
    simp only [dropCell]
    split
    · subst c
      rw [ih]
      simp only [findCell]
      split <;> simp_all
    · simp only [findCell, ih]
      split
      · subst c; rw [if_neg ‹_›]
      · rfl

theorem findCell_eq_none {a : Nat} {l : List (Nat × α)} (h : ∀ p ∈ l, p.1 ≠ a) : findCell a l = none := by
  induction l with
  | nil => rfl
  | cons q t ih =>
    rw [findCell, if_neg (h q (by simp))]
    exact ih fun p hp => h p (List.mem_cons_of_mem _ hp)

theorem mem_putCell {a : Nat} {v : α} {l : List (Nat × α)} {p : Nat × α} (h : p ∈ putCell a v l) :
    p = (a, v) ∨ p ∈ l := by
  induction l with
  | nil => simpa [putCell] using h
  | cons q t ih =>
    obtain ⟨c, w⟩ := q
    simp only [putCell] at h
    split at h
    · simpa using h
    · split at h
      · rcases List.mem_cons.1 h with h | h
        · exact .inl h
        · exact .inr (List.mem_cons_of_mem _ h)
      · rcases List.mem_cons.1 h with h | h
        · exact .inr (by simp [h])
        · exact (ih h).imp_right (List.mem_cons_of_mem _)

theorem mem_of_mem_dropCell {a : Nat} {l : List (Nat × α)} {p : Nat × α} (h : p ∈ dropCell a l) : p ∈ l := by
  induction l with
  | nil => simp [dropCell] at h
  | cons q t ih =>
    obtain ⟨c, w⟩ := q
    simp only [dropCell] at h
    split at h
    · exact List.mem_cons_of_mem _ (ih h)
    · rcases List.mem_cons.1 h with h | h
      · simp [h]
      · exact List.mem_cons_of_mem _ (ih h)

/-- Addresses strictly rising. -/
abbrev Rising (l : List (Nat × α)) : Prop := l.Pairwise fun p q => p.1 < q.1

theorem rising_putCell (a : Nat) (v : α) {l : List (Nat × α)} (h : Rising l) : Rising (putCell a v l) := by
  induction l with
  | nil => simp [putCell, Rising]
  | cons q t ih =>
    obtain ⟨c, w⟩ := q
    have ht := List.pairwise_cons.1 h
    simp only [putCell]
    split
    · refine List.pairwise_cons.2 ⟨fun p hp => ?_, h⟩
      rcases List.mem_cons.1 hp with rfl | hp
      · assumption
      · exact Nat.lt_trans ‹a < c› (ht.1 p hp)
    · split
      · subst c
        exact List.pairwise_cons.2 ⟨ht.1, ht.2⟩
      · refine List.pairwise_cons.2 ⟨fun p hp => ?_, ih ht.2⟩
        rcases mem_putCell hp with rfl | hp
        · show c < a
          omega
        · exact ht.1 p hp

theorem rising_dropCell (a : Nat) {l : List (Nat × α)} (h : Rising l) : Rising (dropCell a l) := by
  induction l with
  | nil => simp [dropCell, Rising]
  | cons q t ih =>
    obtain ⟨c, w⟩ := q
    have ht := List.pairwise_cons.1 h
    simp only [dropCell]
    split
    · exact ih ht.2
    · exact List.pairwise_cons.2 ⟨fun p hp => ht.1 p (mem_of_mem_dropCell hp), ih ht.2⟩

/-! ## Reading after writing -/

@[simp] theorem Memory.cleared_draw : (Memory.cleared : Memory α).draw = none := rfl

@[simp] theorem Memory.read_cleared (zero : α) (free : Draw → Nat → α) (a : Nat) :
    (Memory.cleared : Memory α).read zero free a = zero := rfl

section Laws

variable [DecidableEq α] (zero : α) (free : Draw → Nat → α)

/-- A read after a write: the value written at its address, what was there at every other. -/
theorem Memory.read_write (a b : Nat) (v : α) (m : Memory α) :
    (m.write zero a v).read zero free b = if a = b then v else m.read zero free b := by
  unfold Memory.write
  split
  · next h =>
    by_cases hab : a = b <;> simp [Memory.read, findCell_dropCell, h.1, h.2, hab]
  · by_cases hab : a = b <;> simp [Memory.read, findCell_putCell, hab]

@[simp] theorem Memory.write_draw (a : Nat) (v : α) (m : Memory α) : (m.write zero a v).draw = m.draw := by
  unfold Memory.write
  split <;> rfl

/-- A read after writing `f` at every address of a list. -/
theorem Memory.read_writeAll (as : List Nat) (f : Nat → α) (m : Memory α) (b : Nat) :
    (m.writeAll zero as f).read zero free b = if b ∈ as then f b else m.read zero free b := by
  induction as with
  | nil => simp [Memory.writeAll]
  | cons a t ih =>
    have hstep : m.writeAll zero (a :: t) f = (m.writeAll zero t f).write zero a (f a) := rfl
    rw [hstep, Memory.read_write, ih]
    by_cases hab : a = b
    · subst hab; simp
    · have hba : ¬ b = a := fun h => hab h.symm
      simp [hab, hba]

@[simp] theorem Memory.writeAll_draw (as : List Nat) (f : Nat → α) (m : Memory α) :
    (m.writeAll zero as f).draw = m.draw := by
  induction as with
  | nil => rfl
  | cons a t ih => exact (Memory.write_draw zero a (f a) _).trans ih

theorem findCell_listCells (l : List α) (a b : Nat) :
    (findCell b (listCells zero a l)).getD zero = if a ≤ b then l.getD (b - a) zero else zero := by
  induction l generalizing a with
  | nil => simp [listCells, findCell]
  | cons v t ih =>
    have hnext := ih (a + 1)
    simp only [listCells]
    split
    · next hv =>
      rw [hnext]
      rcases Nat.lt_trichotomy b a with h | h | h
      · rw [if_neg (by omega), if_neg (by omega)]
      · subst h; simp [hv]
      · rw [if_pos (by omega), if_pos (by omega), show b - a = b - (a + 1) + 1 by omega]
        simp
    · simp only [findCell]
      split
      · next h => subst h; simp
      · next h =>
        rw [hnext]
        rcases Nat.lt_trichotomy b a with h' | h' | h'
        · rw [if_neg (by omega), if_neg (by omega)]
        · exact absurd h'.symm h
        · rw [if_pos (by omega), if_pos (by omega), show b - a = b - (a + 1) + 1 by omega]
          simp

/-- A memory loaded from a list reads as the list, and as zero from its end on. -/
theorem Memory.read_ofList (l : List α) (b : Nat) : (Memory.ofList zero l).read zero free b = l.getD b zero := by
  have h := findCell_listCells zero l 0 b
  rw [if_pos (Nat.zero_le b), Nat.sub_zero] at h
  rw [← h]
  unfold Memory.read Memory.ofList
  cases findCell b (listCells zero 0 l) <;> rfl

/-! ## The canonical form -/

theorem Memory.wf_cleared (size : Nat) : (Memory.cleared : Memory α).wf zero size :=
  ⟨List.Pairwise.nil, by simp [Memory.cleared], by simp [Memory.cleared]⟩

/-- A memory nothing of which has been written since reset is in canonical form. -/
theorem Memory.wf_drawn (size : Nat) (d : Draw) : Memory.wf zero size { draw := some d, cells := [] } :=
  ⟨List.Pairwise.nil, by simp, by simp⟩

/-- Writing an element inside the memory keeps the canonical form. -/
theorem Memory.wf_write {size a : Nat} (v : α) {m : Memory α} (h : m.wf zero size) (ha : a < size) :
    (m.write zero a v).wf zero size := by
  obtain ⟨h1, h2, h3⟩ := h
  unfold Memory.write
  split
  · exact ⟨rising_dropCell a h1, fun p hp => h2 p (mem_of_mem_dropCell hp),
      fun hd p hp => h3 hd p (mem_of_mem_dropCell hp)⟩
  · next hn =>
    refine ⟨rising_putCell a v h1, fun p hp => ?_, fun hd p hp => ?_⟩
    · rcases mem_putCell hp with rfl | hp
      · exact ha
      · exact h2 p hp
    · rcases mem_putCell hp with rfl | hp
      · exact fun hv => hn ⟨hd, hv⟩
      · exact h3 hd p hp

/-- Writing elements inside the memory keeps the canonical form. -/
theorem Memory.wf_writeAll {size : Nat} {as : List Nat} (f : Nat → α) {m : Memory α} (h : m.wf zero size)
    (has : ∀ a ∈ as, a < size) : (m.writeAll zero as f).wf zero size := by
  induction as with
  | nil => exact h
  | cons a t ih =>
    exact Memory.wf_write zero (f a) (ih fun b hb => has b (List.mem_cons_of_mem _ hb)) (has a (by simp))

theorem listCells_spec (l : List α) (a : Nat) :
    Rising (listCells zero a l) ∧ ∀ p ∈ listCells zero a l, a ≤ p.1 ∧ p.1 < a + l.length ∧ p.2 ≠ zero := by
  induction l generalizing a with
  | nil => simp [listCells, Rising]
  | cons v t ih =>
    obtain ⟨h1, h2⟩ := ih (a + 1)
    simp only [listCells]
    split
    · exact ⟨h1, fun p hp => by
        obtain ⟨x, y, z⟩ := h2 p hp
        exact ⟨by omega, by simp only [List.length_cons]; omega, z⟩⟩
    · next hv =>
      refine ⟨List.pairwise_cons.2 ⟨fun p hp => Nat.lt_of_succ_le (h2 p hp).1, h1⟩, fun p hp => ?_⟩
      rcases List.mem_cons.1 hp with rfl | hp
      · exact ⟨Nat.le_refl _, by simp, hv⟩
      · obtain ⟨x, y, z⟩ := h2 p hp
        exact ⟨by omega, by simp only [List.length_cons]; omega, z⟩

/-- A memory loaded from a list that fits is in canonical form. -/
theorem Memory.wf_ofList {size : Nat} {l : List α} (h : l.length ≤ size) : (Memory.ofList zero l).wf zero size := by
  obtain ⟨h1, h2⟩ := listCells_spec zero l 0
  exact ⟨h1, fun p hp => by have := (h2 p hp).2.1; omega, fun _ p hp => (h2 p hp).2.2⟩

end Laws

/-! ## Bits and codes -/

@[simp] theorem Memory.bit_cleared (a : Nat) : (Memory.cleared : Memory Bool).bit a = false := rfl

@[simp] theorem Memory.code_cleared (a : Nat) : (Memory.cleared : Memory Code).code a = 0 := rfl

theorem Memory.bit_write (a b : Nat) (v : Bool) (m : Memory Bool) :
    (m.write false a v).bit b = if a = b then v else m.bit b := Memory.read_write false _ a b v m

theorem Memory.bit_writeAll (as : List Nat) (f : Nat → Bool) (m : Memory Bool) (b : Nat) :
    (m.writeAll false as f).bit b = if b ∈ as then f b else m.bit b := Memory.read_writeAll false _ as f m b

theorem Memory.bit_ofList (l : List Bool) (b : Nat) : (Memory.ofList false l).bit b = l.getD b false :=
  Memory.read_ofList false _ l b

theorem Memory.code_ofList (l : List Code) (b : Nat) : (Memory.ofList 0 l).code b = l.getD b 0 :=
  Memory.read_ofList 0 _ l b

/-! ## Vector registers -/

theorem Quad.get_set {α : Type} (q : Quad α) (j k : VNum) (x : α) :
    (q.set j x).get k = if k = j then x else q.get k := by
  have hall : ∀ b : VNum, b = 0 ∨ b = 1 ∨ b = 2 ∨ b = 3 := by decide
  rcases hall j with rfl | rfl | rfl | rfl <;> rcases hall k with rfl | rfl | rfl | rfl <;> rfl

end Sys2Proof.Machine
end

