-- ==== Sys2Proof/Laws/State.lean ====
section
/-! SUPPORT. What each update of the state writes and leaves: one lemma per field and update, true by unfolding the
update. -/

namespace Sys2Proof.Machine

open Sys2Proof

@[simp] theorem ErrCode.bits_none : ErrCode.none.bits = 0 := rfl
@[simp] theorem ErrCode.bits_dim : ErrCode.dim.bits = 1 := rfl
@[simp] theorem ErrCode.bits_size : ErrCode.size.bits = 2 := rfl
@[simp] theorem ErrCode.bits_parity : ErrCode.parity.bits = 4 := rfl
@[simp] theorem ErrCode.bits_capacity : ErrCode.capacity.bits = 5 := rfl
@[simp] theorem ErrCode.bits_illegal : ErrCode.illegal.bits = 6 := rfl

variable (s : State)

/-! ## Complete (rule R164) -/

@[simp] theorem complete_cfg (c : ErrCode) : (complete c s).cfg = s.cfg := rfl
@[simp] theorem complete_ie (c : ErrCode) : (complete c s).ie = s.ie := rfl
@[simp] theorem complete_busy (c : ErrCode) : (complete c s).busy = false := rfl
@[simp] theorem complete_done (c : ErrCode) : (complete c s).done = true := rfl
@[simp] theorem complete_ovr (c : ErrCode) : (complete c s).ovr = s.ovr := rfl
@[simp] theorem complete_range (c : ErrCode) : (complete c s).range = s.range := rfl
@[simp] theorem complete_errcode (c : ErrCode) : (complete c s).errcode = c.bits := rfl
@[simp] theorem complete_lastcmd (c : ErrCode) : (complete c s).lastcmd = s.lastcmd := rfl
@[simp] theorem complete_pend (c : ErrCode) : (complete c s).pend = s.pend := rfl
@[simp] theorem complete_nreg (c : ErrCode) : (complete c s).nreg = s.nreg := rfl
@[simp] theorem complete_treg (c : ErrCode) : (complete c s).treg = s.treg := rfl
@[simp] theorem complete_mrows (c : ErrCode) : (complete c s).mrows = s.mrows := rfl
@[simp] theorem complete_mcols (c : ErrCode) : (complete c s).mcols = s.mcols := rfl
@[simp] theorem complete_matrow (c : ErrCode) : (complete c s).matrow = s.matrow := rfl
@[simp] theorem complete_matcol (c : ErrCode) : (complete c s).matcol = s.matcol := rfl
@[simp] theorem complete_vsel (c : ErrCode) : (complete c s).vsel = s.vsel := rfl
@[simp] theorem complete_vidx (c : ErrCode) : (complete c s).vidx = s.vidx := rfl
@[simp] theorem complete_vlen (c : ErrCode) : (complete c s).vlen = s.vlen := rfl
@[simp] theorem complete_hrow (c : ErrCode) : (complete c s).hrow = s.hrow := rfl
@[simp] theorem complete_hidx (c : ErrCode) : (complete c s).hidx = s.hidx := rfl
@[simp] theorem complete_hrows (c : ErrCode) : (complete c s).hrows = s.hrows := rfl
@[simp] theorem complete_hm (c : ErrCode) : (complete c s).hm = s.hm := rfl
@[simp] theorem complete_mat (c : ErrCode) : (complete c s).mat = s.mat := rfl
@[simp] theorem complete_vreg (c : ErrCode) : (complete c s).vreg = s.vreg := rfl
@[simp] theorem complete_hist (c : ErrCode) : (complete c s).hist = s.hist := rfl
@[simp] theorem complete_rstN (c : ErrCode) : (complete c s).rstN = s.rstN := rfl
@[simp] theorem complete_inputs (c : ErrCode) : (complete c s).inputs = s.inputs := rfl
@[simp] theorem complete_reads (c : ErrCode) : (complete c s).reads = s.reads := rfl
@[simp] theorem complete_draws (c : ErrCode) : (complete c s).draws = s.draws := rfl
@[simp] theorem complete_resets (c : ErrCode) : (complete c s).resets = s.resets := rfl

/-! ## IssueCommand (rule R161) -/

@[simp] theorem issueCommand_cfg (v : Word) : (issueCommand v s).cfg = s.cfg := rfl
@[simp] theorem issueCommand_ie (v : Word) : (issueCommand v s).ie = s.ie := rfl
@[simp] theorem issueCommand_busy (v : Word) : (issueCommand v s).busy = true := rfl
@[simp] theorem issueCommand_done (v : Word) : (issueCommand v s).done = false := rfl
@[simp] theorem issueCommand_ovr (v : Word) : (issueCommand v s).ovr = s.ovr := rfl
@[simp] theorem issueCommand_range (v : Word) : (issueCommand v s).range = s.range := rfl
@[simp] theorem issueCommand_errcode (v : Word) : (issueCommand v s).errcode = 0 := rfl
@[simp] theorem issueCommand_lastcmd (v : Word) : (issueCommand v s).lastcmd = v := rfl
@[simp] theorem issueCommand_pend (v : Word) : (issueCommand v s).pend = v := rfl
@[simp] theorem issueCommand_nreg (v : Word) : (issueCommand v s).nreg = s.nreg := rfl
@[simp] theorem issueCommand_treg (v : Word) : (issueCommand v s).treg = s.treg := rfl
@[simp] theorem issueCommand_mrows (v : Word) : (issueCommand v s).mrows = s.mrows := rfl
@[simp] theorem issueCommand_mcols (v : Word) : (issueCommand v s).mcols = s.mcols := rfl
@[simp] theorem issueCommand_matrow (v : Word) : (issueCommand v s).matrow = s.matrow := rfl
@[simp] theorem issueCommand_matcol (v : Word) : (issueCommand v s).matcol = s.matcol := rfl
@[simp] theorem issueCommand_vsel (v : Word) : (issueCommand v s).vsel = s.vsel := rfl
@[simp] theorem issueCommand_vidx (v : Word) : (issueCommand v s).vidx = s.vidx := rfl
@[simp] theorem issueCommand_vlen (v : Word) : (issueCommand v s).vlen = s.vlen := rfl
@[simp] theorem issueCommand_hrow (v : Word) : (issueCommand v s).hrow = s.hrow := rfl
@[simp] theorem issueCommand_hidx (v : Word) : (issueCommand v s).hidx = s.hidx := rfl
@[simp] theorem issueCommand_hrows (v : Word) : (issueCommand v s).hrows = s.hrows := rfl
@[simp] theorem issueCommand_hm (v : Word) : (issueCommand v s).hm = s.hm := rfl
@[simp] theorem issueCommand_mat (v : Word) : (issueCommand v s).mat = s.mat := rfl
@[simp] theorem issueCommand_vreg (v : Word) : (issueCommand v s).vreg = s.vreg := rfl
@[simp] theorem issueCommand_hist (v : Word) : (issueCommand v s).hist = s.hist := rfl
@[simp] theorem issueCommand_rstN (v : Word) : (issueCommand v s).rstN = s.rstN := rfl
@[simp] theorem issueCommand_inputs (v : Word) : (issueCommand v s).inputs = s.inputs := rfl
@[simp] theorem issueCommand_reads (v : Word) : (issueCommand v s).reads = s.reads := rfl
@[simp] theorem issueCommand_draws (v : Word) : (issueCommand v s).draws = s.draws := rfl
@[simp] theorem issueCommand_resets (v : Word) : (issueCommand v s).resets = s.resets := rfl

/-! ## writing a vector register -/

@[simp] theorem setVreg_cfg (d : VNum) (y : List Bool) : (setVreg d y s).cfg = s.cfg := rfl
@[simp] theorem setVreg_ie (d : VNum) (y : List Bool) : (setVreg d y s).ie = s.ie := rfl
@[simp] theorem setVreg_busy (d : VNum) (y : List Bool) : (setVreg d y s).busy = s.busy := rfl
@[simp] theorem setVreg_done (d : VNum) (y : List Bool) : (setVreg d y s).done = s.done := rfl
@[simp] theorem setVreg_ovr (d : VNum) (y : List Bool) : (setVreg d y s).ovr = s.ovr := rfl
@[simp] theorem setVreg_range (d : VNum) (y : List Bool) : (setVreg d y s).range = s.range := rfl
@[simp] theorem setVreg_errcode (d : VNum) (y : List Bool) : (setVreg d y s).errcode = s.errcode := rfl
@[simp] theorem setVreg_lastcmd (d : VNum) (y : List Bool) : (setVreg d y s).lastcmd = s.lastcmd := rfl
@[simp] theorem setVreg_pend (d : VNum) (y : List Bool) : (setVreg d y s).pend = s.pend := rfl
@[simp] theorem setVreg_nreg (d : VNum) (y : List Bool) : (setVreg d y s).nreg = s.nreg := rfl
@[simp] theorem setVreg_treg (d : VNum) (y : List Bool) : (setVreg d y s).treg = s.treg := rfl
@[simp] theorem setVreg_mrows (d : VNum) (y : List Bool) : (setVreg d y s).mrows = s.mrows := rfl
@[simp] theorem setVreg_mcols (d : VNum) (y : List Bool) : (setVreg d y s).mcols = s.mcols := rfl
@[simp] theorem setVreg_matrow (d : VNum) (y : List Bool) : (setVreg d y s).matrow = s.matrow := rfl
@[simp] theorem setVreg_matcol (d : VNum) (y : List Bool) : (setVreg d y s).matcol = s.matcol := rfl
@[simp] theorem setVreg_vsel (d : VNum) (y : List Bool) : (setVreg d y s).vsel = s.vsel := rfl
@[simp] theorem setVreg_vidx (d : VNum) (y : List Bool) : (setVreg d y s).vidx = s.vidx := rfl
@[simp] theorem setVreg_vlen (d : VNum) (y : List Bool) : (setVreg d y s).vlen = s.vlen := rfl
@[simp] theorem setVreg_hrow (d : VNum) (y : List Bool) : (setVreg d y s).hrow = s.hrow := rfl
@[simp] theorem setVreg_hidx (d : VNum) (y : List Bool) : (setVreg d y s).hidx = s.hidx := rfl
@[simp] theorem setVreg_hrows (d : VNum) (y : List Bool) : (setVreg d y s).hrows = s.hrows := rfl
@[simp] theorem setVreg_hm (d : VNum) (y : List Bool) : (setVreg d y s).hm = s.hm := rfl
@[simp] theorem setVreg_mat (d : VNum) (y : List Bool) : (setVreg d y s).mat = s.mat := rfl
@[simp] theorem setVreg_vreg (d : VNum) (y : List Bool) : (setVreg d y s).vreg = s.vreg.set d (Memory.ofList false y) := rfl
@[simp] theorem setVreg_hist (d : VNum) (y : List Bool) : (setVreg d y s).hist = s.hist := rfl
@[simp] theorem setVreg_rstN (d : VNum) (y : List Bool) : (setVreg d y s).rstN = s.rstN := rfl
@[simp] theorem setVreg_inputs (d : VNum) (y : List Bool) : (setVreg d y s).inputs = s.inputs := rfl
@[simp] theorem setVreg_reads (d : VNum) (y : List Bool) : (setVreg d y s).reads = s.reads := rfl
@[simp] theorem setVreg_draws (d : VNum) (y : List Bool) : (setVreg d y s).draws = s.draws := rfl
@[simp] theorem setVreg_resets (d : VNum) (y : List Bool) : (setVreg d y s).resets = s.resets := rfl

/-! ## WriteVec (rule R180) -/

@[simp] theorem writeVec_cfg (d : VNum) (y : List Bool) : (writeVec d y s).cfg = s.cfg := rfl
@[simp] theorem writeVec_ie (d : VNum) (y : List Bool) : (writeVec d y s).ie = s.ie := rfl
@[simp] theorem writeVec_busy (d : VNum) (y : List Bool) : (writeVec d y s).busy = s.busy := rfl
@[simp] theorem writeVec_done (d : VNum) (y : List Bool) : (writeVec d y s).done = s.done := rfl
@[simp] theorem writeVec_ovr (d : VNum) (y : List Bool) : (writeVec d y s).ovr = s.ovr := rfl
@[simp] theorem writeVec_range (d : VNum) (y : List Bool) : (writeVec d y s).range = s.range := rfl
@[simp] theorem writeVec_errcode (d : VNum) (y : List Bool) : (writeVec d y s).errcode = s.errcode := rfl
@[simp] theorem writeVec_lastcmd (d : VNum) (y : List Bool) : (writeVec d y s).lastcmd = s.lastcmd := rfl
@[simp] theorem writeVec_pend (d : VNum) (y : List Bool) : (writeVec d y s).pend = s.pend := rfl
@[simp] theorem writeVec_nreg (d : VNum) (y : List Bool) : (writeVec d y s).nreg = s.nreg := rfl
@[simp] theorem writeVec_treg (d : VNum) (y : List Bool) : (writeVec d y s).treg = s.treg := rfl
@[simp] theorem writeVec_mrows (d : VNum) (y : List Bool) : (writeVec d y s).mrows = s.mrows := rfl
@[simp] theorem writeVec_mcols (d : VNum) (y : List Bool) : (writeVec d y s).mcols = s.mcols := rfl
@[simp] theorem writeVec_matrow (d : VNum) (y : List Bool) : (writeVec d y s).matrow = s.matrow := rfl
@[simp] theorem writeVec_matcol (d : VNum) (y : List Bool) : (writeVec d y s).matcol = s.matcol := rfl
@[simp] theorem writeVec_vsel (d : VNum) (y : List Bool) : (writeVec d y s).vsel = s.vsel := rfl
@[simp] theorem writeVec_vidx (d : VNum) (y : List Bool) : (writeVec d y s).vidx = s.vidx := rfl
@[simp] theorem writeVec_vlen (d : VNum) (y : List Bool) : (writeVec d y s).vlen = s.vlen.set d (BitVec.ofNat 32 y.length) := rfl
@[simp] theorem writeVec_hrow (d : VNum) (y : List Bool) : (writeVec d y s).hrow = s.hrow := rfl
@[simp] theorem writeVec_hidx (d : VNum) (y : List Bool) : (writeVec d y s).hidx = s.hidx := rfl
@[simp] theorem writeVec_hrows (d : VNum) (y : List Bool) : (writeVec d y s).hrows = s.hrows := rfl
@[simp] theorem writeVec_hm (d : VNum) (y : List Bool) : (writeVec d y s).hm = s.hm := rfl
@[simp] theorem writeVec_mat (d : VNum) (y : List Bool) : (writeVec d y s).mat = s.mat := rfl
@[simp] theorem writeVec_vreg (d : VNum) (y : List Bool) : (writeVec d y s).vreg = s.vreg.set d (Memory.ofList false y) := rfl
@[simp] theorem writeVec_hist (d : VNum) (y : List Bool) : (writeVec d y s).hist = s.hist := rfl
@[simp] theorem writeVec_rstN (d : VNum) (y : List Bool) : (writeVec d y s).rstN = s.rstN := rfl
@[simp] theorem writeVec_inputs (d : VNum) (y : List Bool) : (writeVec d y s).inputs = s.inputs := rfl
@[simp] theorem writeVec_reads (d : VNum) (y : List Bool) : (writeVec d y s).reads = s.reads := rfl
@[simp] theorem writeVec_draws (d : VNum) (y : List Bool) : (writeVec d y s).draws = s.draws := rfl
@[simp] theorem writeVec_resets (d : VNum) (y : List Bool) : (writeVec d y s).resets = s.resets := rfl

/-! ## setting MROWS and MCOLS -/

@[simp] theorem setDims_cfg (m n : Nat) : (setDims m n s).cfg = s.cfg := rfl
@[simp] theorem setDims_ie (m n : Nat) : (setDims m n s).ie = s.ie := rfl
@[simp] theorem setDims_busy (m n : Nat) : (setDims m n s).busy = s.busy := rfl
@[simp] theorem setDims_done (m n : Nat) : (setDims m n s).done = s.done := rfl
@[simp] theorem setDims_ovr (m n : Nat) : (setDims m n s).ovr = s.ovr := rfl
@[simp] theorem setDims_range (m n : Nat) : (setDims m n s).range = s.range := rfl
@[simp] theorem setDims_errcode (m n : Nat) : (setDims m n s).errcode = s.errcode := rfl
@[simp] theorem setDims_lastcmd (m n : Nat) : (setDims m n s).lastcmd = s.lastcmd := rfl
@[simp] theorem setDims_pend (m n : Nat) : (setDims m n s).pend = s.pend := rfl
@[simp] theorem setDims_nreg (m n : Nat) : (setDims m n s).nreg = s.nreg := rfl
@[simp] theorem setDims_treg (m n : Nat) : (setDims m n s).treg = s.treg := rfl
@[simp] theorem setDims_mrows (m n : Nat) : (setDims m n s).mrows = BitVec.ofNat 32 m := rfl
@[simp] theorem setDims_mcols (m n : Nat) : (setDims m n s).mcols = BitVec.ofNat 32 n := rfl
@[simp] theorem setDims_matrow (m n : Nat) : (setDims m n s).matrow = s.matrow := rfl
@[simp] theorem setDims_matcol (m n : Nat) : (setDims m n s).matcol = s.matcol := rfl
@[simp] theorem setDims_vsel (m n : Nat) : (setDims m n s).vsel = s.vsel := rfl
@[simp] theorem setDims_vidx (m n : Nat) : (setDims m n s).vidx = s.vidx := rfl
@[simp] theorem setDims_vlen (m n : Nat) : (setDims m n s).vlen = s.vlen := rfl
@[simp] theorem setDims_hrow (m n : Nat) : (setDims m n s).hrow = s.hrow := rfl
@[simp] theorem setDims_hidx (m n : Nat) : (setDims m n s).hidx = s.hidx := rfl
@[simp] theorem setDims_hrows (m n : Nat) : (setDims m n s).hrows = s.hrows := rfl
@[simp] theorem setDims_hm (m n : Nat) : (setDims m n s).hm = s.hm := rfl
@[simp] theorem setDims_mat (m n : Nat) : (setDims m n s).mat = s.mat := rfl
@[simp] theorem setDims_vreg (m n : Nat) : (setDims m n s).vreg = s.vreg := rfl
@[simp] theorem setDims_hist (m n : Nat) : (setDims m n s).hist = s.hist := rfl
@[simp] theorem setDims_rstN (m n : Nat) : (setDims m n s).rstN = s.rstN := rfl
@[simp] theorem setDims_inputs (m n : Nat) : (setDims m n s).inputs = s.inputs := rfl
@[simp] theorem setDims_reads (m n : Nat) : (setDims m n s).reads = s.reads := rfl
@[simp] theorem setDims_draws (m n : Nat) : (setDims m n s).draws = s.draws := rfl
@[simp] theorem setDims_resets (m n : Nat) : (setDims m n s).resets = s.resets := rfl

/-! ## setting HROWS and HM -/

@[simp] theorem setExtent_cfg (r m : Nat) : (setExtent r m s).cfg = s.cfg := rfl
@[simp] theorem setExtent_ie (r m : Nat) : (setExtent r m s).ie = s.ie := rfl
@[simp] theorem setExtent_busy (r m : Nat) : (setExtent r m s).busy = s.busy := rfl
@[simp] theorem setExtent_done (r m : Nat) : (setExtent r m s).done = s.done := rfl
@[simp] theorem setExtent_ovr (r m : Nat) : (setExtent r m s).ovr = s.ovr := rfl
@[simp] theorem setExtent_range (r m : Nat) : (setExtent r m s).range = s.range := rfl
@[simp] theorem setExtent_errcode (r m : Nat) : (setExtent r m s).errcode = s.errcode := rfl
@[simp] theorem setExtent_lastcmd (r m : Nat) : (setExtent r m s).lastcmd = s.lastcmd := rfl
@[simp] theorem setExtent_pend (r m : Nat) : (setExtent r m s).pend = s.pend := rfl
@[simp] theorem setExtent_nreg (r m : Nat) : (setExtent r m s).nreg = s.nreg := rfl
@[simp] theorem setExtent_treg (r m : Nat) : (setExtent r m s).treg = s.treg := rfl
@[simp] theorem setExtent_mrows (r m : Nat) : (setExtent r m s).mrows = s.mrows := rfl
@[simp] theorem setExtent_mcols (r m : Nat) : (setExtent r m s).mcols = s.mcols := rfl
@[simp] theorem setExtent_matrow (r m : Nat) : (setExtent r m s).matrow = s.matrow := rfl
@[simp] theorem setExtent_matcol (r m : Nat) : (setExtent r m s).matcol = s.matcol := rfl
@[simp] theorem setExtent_vsel (r m : Nat) : (setExtent r m s).vsel = s.vsel := rfl
@[simp] theorem setExtent_vidx (r m : Nat) : (setExtent r m s).vidx = s.vidx := rfl
@[simp] theorem setExtent_vlen (r m : Nat) : (setExtent r m s).vlen = s.vlen := rfl
@[simp] theorem setExtent_hrow (r m : Nat) : (setExtent r m s).hrow = s.hrow := rfl
@[simp] theorem setExtent_hidx (r m : Nat) : (setExtent r m s).hidx = s.hidx := rfl
@[simp] theorem setExtent_hrows (r m : Nat) : (setExtent r m s).hrows = BitVec.ofNat 32 r := rfl
@[simp] theorem setExtent_hm (r m : Nat) : (setExtent r m s).hm = BitVec.ofNat 32 m := rfl
@[simp] theorem setExtent_mat (r m : Nat) : (setExtent r m s).mat = s.mat := rfl
@[simp] theorem setExtent_vreg (r m : Nat) : (setExtent r m s).vreg = s.vreg := rfl
@[simp] theorem setExtent_hist (r m : Nat) : (setExtent r m s).hist = s.hist := rfl
@[simp] theorem setExtent_rstN (r m : Nat) : (setExtent r m s).rstN = s.rstN := rfl
@[simp] theorem setExtent_inputs (r m : Nat) : (setExtent r m s).inputs = s.inputs := rfl
@[simp] theorem setExtent_reads (r m : Nat) : (setExtent r m s).reads = s.reads := rfl
@[simp] theorem setExtent_draws (r m : Nat) : (setExtent r m s).draws = s.draws := rfl
@[simp] theorem setExtent_resets (r m : Nat) : (setExtent r m s).resets = s.resets := rfl

/-! ## loading MAT -/

@[simp] theorem loadMat_cfg (n : Nat) (M : GfMat) : (loadMat n M s).cfg = s.cfg := rfl
@[simp] theorem loadMat_ie (n : Nat) (M : GfMat) : (loadMat n M s).ie = s.ie := rfl
@[simp] theorem loadMat_busy (n : Nat) (M : GfMat) : (loadMat n M s).busy = s.busy := rfl
@[simp] theorem loadMat_done (n : Nat) (M : GfMat) : (loadMat n M s).done = s.done := rfl
@[simp] theorem loadMat_ovr (n : Nat) (M : GfMat) : (loadMat n M s).ovr = s.ovr := rfl
@[simp] theorem loadMat_range (n : Nat) (M : GfMat) : (loadMat n M s).range = s.range := rfl
@[simp] theorem loadMat_errcode (n : Nat) (M : GfMat) : (loadMat n M s).errcode = s.errcode := rfl
@[simp] theorem loadMat_lastcmd (n : Nat) (M : GfMat) : (loadMat n M s).lastcmd = s.lastcmd := rfl
@[simp] theorem loadMat_pend (n : Nat) (M : GfMat) : (loadMat n M s).pend = s.pend := rfl
@[simp] theorem loadMat_nreg (n : Nat) (M : GfMat) : (loadMat n M s).nreg = s.nreg := rfl
@[simp] theorem loadMat_treg (n : Nat) (M : GfMat) : (loadMat n M s).treg = s.treg := rfl
@[simp] theorem loadMat_mrows (n : Nat) (M : GfMat) : (loadMat n M s).mrows = s.mrows := rfl
@[simp] theorem loadMat_mcols (n : Nat) (M : GfMat) : (loadMat n M s).mcols = s.mcols := rfl
@[simp] theorem loadMat_matrow (n : Nat) (M : GfMat) : (loadMat n M s).matrow = s.matrow := rfl
@[simp] theorem loadMat_matcol (n : Nat) (M : GfMat) : (loadMat n M s).matcol = s.matcol := rfl
@[simp] theorem loadMat_vsel (n : Nat) (M : GfMat) : (loadMat n M s).vsel = s.vsel := rfl
@[simp] theorem loadMat_vidx (n : Nat) (M : GfMat) : (loadMat n M s).vidx = s.vidx := rfl
@[simp] theorem loadMat_vlen (n : Nat) (M : GfMat) : (loadMat n M s).vlen = s.vlen := rfl
@[simp] theorem loadMat_hrow (n : Nat) (M : GfMat) : (loadMat n M s).hrow = s.hrow := rfl
@[simp] theorem loadMat_hidx (n : Nat) (M : GfMat) : (loadMat n M s).hidx = s.hidx := rfl
@[simp] theorem loadMat_hrows (n : Nat) (M : GfMat) : (loadMat n M s).hrows = s.hrows := rfl
@[simp] theorem loadMat_hm (n : Nat) (M : GfMat) : (loadMat n M s).hm = s.hm := rfl
@[simp] theorem loadMat_mat (n : Nat) (M : GfMat) : (loadMat n M s).mat = Memory.cleared.writeAll false (onesOf s.cfg.dmax 0 0 n M) fun _ => true := rfl
@[simp] theorem loadMat_vreg (n : Nat) (M : GfMat) : (loadMat n M s).vreg = s.vreg := rfl
@[simp] theorem loadMat_hist (n : Nat) (M : GfMat) : (loadMat n M s).hist = s.hist := rfl
@[simp] theorem loadMat_rstN (n : Nat) (M : GfMat) : (loadMat n M s).rstN = s.rstN := rfl
@[simp] theorem loadMat_inputs (n : Nat) (M : GfMat) : (loadMat n M s).inputs = s.inputs := rfl
@[simp] theorem loadMat_reads (n : Nat) (M : GfMat) : (loadMat n M s).reads = s.reads := rfl
@[simp] theorem loadMat_draws (n : Nat) (M : GfMat) : (loadMat n M s).draws = s.draws := rfl
@[simp] theorem loadMat_resets (n : Nat) (M : GfMat) : (loadMat n M s).resets = s.resets := rfl

/-! ## Acc (rule R222) -/

@[simp] theorem accumulate_cfg (ro co K : Nat) (op : GfMat) : (accumulate ro co K op s).cfg = s.cfg := rfl
@[simp] theorem accumulate_ie (ro co K : Nat) (op : GfMat) : (accumulate ro co K op s).ie = s.ie := rfl
@[simp] theorem accumulate_busy (ro co K : Nat) (op : GfMat) : (accumulate ro co K op s).busy = s.busy := rfl
@[simp] theorem accumulate_done (ro co K : Nat) (op : GfMat) : (accumulate ro co K op s).done = s.done := rfl
@[simp] theorem accumulate_ovr (ro co K : Nat) (op : GfMat) : (accumulate ro co K op s).ovr = s.ovr := rfl
@[simp] theorem accumulate_range (ro co K : Nat) (op : GfMat) : (accumulate ro co K op s).range = s.range := rfl
@[simp] theorem accumulate_errcode (ro co K : Nat) (op : GfMat) : (accumulate ro co K op s).errcode = s.errcode := rfl
@[simp] theorem accumulate_lastcmd (ro co K : Nat) (op : GfMat) : (accumulate ro co K op s).lastcmd = s.lastcmd := rfl
@[simp] theorem accumulate_pend (ro co K : Nat) (op : GfMat) : (accumulate ro co K op s).pend = s.pend := rfl
@[simp] theorem accumulate_nreg (ro co K : Nat) (op : GfMat) : (accumulate ro co K op s).nreg = s.nreg := rfl
@[simp] theorem accumulate_treg (ro co K : Nat) (op : GfMat) : (accumulate ro co K op s).treg = s.treg := rfl
@[simp] theorem accumulate_mrows (ro co K : Nat) (op : GfMat) : (accumulate ro co K op s).mrows = s.mrows := rfl
@[simp] theorem accumulate_mcols (ro co K : Nat) (op : GfMat) : (accumulate ro co K op s).mcols = s.mcols := rfl
@[simp] theorem accumulate_matrow (ro co K : Nat) (op : GfMat) : (accumulate ro co K op s).matrow = s.matrow := rfl
@[simp] theorem accumulate_matcol (ro co K : Nat) (op : GfMat) : (accumulate ro co K op s).matcol = s.matcol := rfl
@[simp] theorem accumulate_vsel (ro co K : Nat) (op : GfMat) : (accumulate ro co K op s).vsel = s.vsel := rfl
@[simp] theorem accumulate_vidx (ro co K : Nat) (op : GfMat) : (accumulate ro co K op s).vidx = s.vidx := rfl
@[simp] theorem accumulate_vlen (ro co K : Nat) (op : GfMat) : (accumulate ro co K op s).vlen = s.vlen := rfl
@[simp] theorem accumulate_hrow (ro co K : Nat) (op : GfMat) : (accumulate ro co K op s).hrow = s.hrow := rfl
@[simp] theorem accumulate_hidx (ro co K : Nat) (op : GfMat) : (accumulate ro co K op s).hidx = s.hidx := rfl
@[simp] theorem accumulate_hrows (ro co K : Nat) (op : GfMat) : (accumulate ro co K op s).hrows = s.hrows := rfl
@[simp] theorem accumulate_hm (ro co K : Nat) (op : GfMat) : (accumulate ro co K op s).hm = s.hm := rfl
@[simp] theorem accumulate_mat (ro co K : Nat) (op : GfMat) : (accumulate ro co K op s).mat = s.mat.writeAll false (onesOf s.cfg.dmax ro co K op) fun a => !s.mat.bit a := rfl
@[simp] theorem accumulate_vreg (ro co K : Nat) (op : GfMat) : (accumulate ro co K op s).vreg = s.vreg := rfl
@[simp] theorem accumulate_hist (ro co K : Nat) (op : GfMat) : (accumulate ro co K op s).hist = s.hist := rfl
@[simp] theorem accumulate_rstN (ro co K : Nat) (op : GfMat) : (accumulate ro co K op s).rstN = s.rstN := rfl
@[simp] theorem accumulate_inputs (ro co K : Nat) (op : GfMat) : (accumulate ro co K op s).inputs = s.inputs := rfl
@[simp] theorem accumulate_reads (ro co K : Nat) (op : GfMat) : (accumulate ro co K op s).reads = s.reads := rfl
@[simp] theorem accumulate_draws (ro co K : Nat) (op : GfMat) : (accumulate ro co K op s).draws = s.draws := rfl
@[simp] theorem accumulate_resets (ro co K : Nat) (op : GfMat) : (accumulate ro co K op s).resets = s.resets := rfl

/-! ## Acc of a grid operator -/

@[simp] theorem accumulateGrid_cfg (op : GridOp) (b : Quadrant) : (accumulateGrid op b s).cfg = s.cfg := rfl
@[simp] theorem accumulateGrid_ie (op : GridOp) (b : Quadrant) : (accumulateGrid op b s).ie = s.ie := rfl
@[simp] theorem accumulateGrid_busy (op : GridOp) (b : Quadrant) : (accumulateGrid op b s).busy = s.busy := rfl
@[simp] theorem accumulateGrid_done (op : GridOp) (b : Quadrant) : (accumulateGrid op b s).done = s.done := rfl
@[simp] theorem accumulateGrid_ovr (op : GridOp) (b : Quadrant) : (accumulateGrid op b s).ovr = s.ovr := rfl
@[simp] theorem accumulateGrid_range (op : GridOp) (b : Quadrant) : (accumulateGrid op b s).range = s.range := rfl
@[simp] theorem accumulateGrid_errcode (op : GridOp) (b : Quadrant) : (accumulateGrid op b s).errcode = s.errcode := rfl
@[simp] theorem accumulateGrid_lastcmd (op : GridOp) (b : Quadrant) : (accumulateGrid op b s).lastcmd = s.lastcmd := rfl
@[simp] theorem accumulateGrid_pend (op : GridOp) (b : Quadrant) : (accumulateGrid op b s).pend = s.pend := rfl
@[simp] theorem accumulateGrid_nreg (op : GridOp) (b : Quadrant) : (accumulateGrid op b s).nreg = s.nreg := rfl
@[simp] theorem accumulateGrid_treg (op : GridOp) (b : Quadrant) : (accumulateGrid op b s).treg = s.treg := rfl
@[simp] theorem accumulateGrid_mrows (op : GridOp) (b : Quadrant) : (accumulateGrid op b s).mrows = s.mrows := rfl
@[simp] theorem accumulateGrid_mcols (op : GridOp) (b : Quadrant) : (accumulateGrid op b s).mcols = s.mcols := rfl
@[simp] theorem accumulateGrid_matrow (op : GridOp) (b : Quadrant) : (accumulateGrid op b s).matrow = s.matrow := rfl
@[simp] theorem accumulateGrid_matcol (op : GridOp) (b : Quadrant) : (accumulateGrid op b s).matcol = s.matcol := rfl
@[simp] theorem accumulateGrid_vsel (op : GridOp) (b : Quadrant) : (accumulateGrid op b s).vsel = s.vsel := rfl
@[simp] theorem accumulateGrid_vidx (op : GridOp) (b : Quadrant) : (accumulateGrid op b s).vidx = s.vidx := rfl
@[simp] theorem accumulateGrid_vlen (op : GridOp) (b : Quadrant) : (accumulateGrid op b s).vlen = s.vlen := rfl
@[simp] theorem accumulateGrid_hrow (op : GridOp) (b : Quadrant) : (accumulateGrid op b s).hrow = s.hrow := rfl
@[simp] theorem accumulateGrid_hidx (op : GridOp) (b : Quadrant) : (accumulateGrid op b s).hidx = s.hidx := rfl
@[simp] theorem accumulateGrid_hrows (op : GridOp) (b : Quadrant) : (accumulateGrid op b s).hrows = s.hrows := rfl
@[simp] theorem accumulateGrid_hm (op : GridOp) (b : Quadrant) : (accumulateGrid op b s).hm = s.hm := rfl
@[simp] theorem accumulateGrid_vreg (op : GridOp) (b : Quadrant) : (accumulateGrid op b s).vreg = s.vreg := rfl
@[simp] theorem accumulateGrid_hist (op : GridOp) (b : Quadrant) : (accumulateGrid op b s).hist = s.hist := rfl
@[simp] theorem accumulateGrid_rstN (op : GridOp) (b : Quadrant) : (accumulateGrid op b s).rstN = s.rstN := rfl
@[simp] theorem accumulateGrid_inputs (op : GridOp) (b : Quadrant) : (accumulateGrid op b s).inputs = s.inputs := rfl
@[simp] theorem accumulateGrid_reads (op : GridOp) (b : Quadrant) : (accumulateGrid op b s).reads = s.reads := rfl
@[simp] theorem accumulateGrid_draws (op : GridOp) (b : Quadrant) : (accumulateGrid op b s).draws = s.draws := rfl
@[simp] theorem accumulateGrid_resets (op : GridOp) (b : Quadrant) : (accumulateGrid op b s).resets = s.resets := rfl

/-! ## setting RANGE -/

@[simp] theorem setRange_cfg : (setRange s).cfg = s.cfg := rfl
@[simp] theorem setRange_ie : (setRange s).ie = s.ie := rfl
@[simp] theorem setRange_busy : (setRange s).busy = s.busy := rfl
@[simp] theorem setRange_done : (setRange s).done = s.done := rfl
@[simp] theorem setRange_ovr : (setRange s).ovr = s.ovr := rfl
@[simp] theorem setRange_range : (setRange s).range = true := rfl
@[simp] theorem setRange_errcode : (setRange s).errcode = s.errcode := rfl
@[simp] theorem setRange_lastcmd : (setRange s).lastcmd = s.lastcmd := rfl
@[simp] theorem setRange_pend : (setRange s).pend = s.pend := rfl
@[simp] theorem setRange_nreg : (setRange s).nreg = s.nreg := rfl
@[simp] theorem setRange_treg : (setRange s).treg = s.treg := rfl
@[simp] theorem setRange_mrows : (setRange s).mrows = s.mrows := rfl
@[simp] theorem setRange_mcols : (setRange s).mcols = s.mcols := rfl
@[simp] theorem setRange_matrow : (setRange s).matrow = s.matrow := rfl
@[simp] theorem setRange_matcol : (setRange s).matcol = s.matcol := rfl
@[simp] theorem setRange_vsel : (setRange s).vsel = s.vsel := rfl
@[simp] theorem setRange_vidx : (setRange s).vidx = s.vidx := rfl
@[simp] theorem setRange_vlen : (setRange s).vlen = s.vlen := rfl
@[simp] theorem setRange_hrow : (setRange s).hrow = s.hrow := rfl
@[simp] theorem setRange_hidx : (setRange s).hidx = s.hidx := rfl
@[simp] theorem setRange_hrows : (setRange s).hrows = s.hrows := rfl
@[simp] theorem setRange_hm : (setRange s).hm = s.hm := rfl
@[simp] theorem setRange_mat : (setRange s).mat = s.mat := rfl
@[simp] theorem setRange_vreg : (setRange s).vreg = s.vreg := rfl
@[simp] theorem setRange_hist : (setRange s).hist = s.hist := rfl
@[simp] theorem setRange_rstN : (setRange s).rstN = s.rstN := rfl
@[simp] theorem setRange_inputs : (setRange s).inputs = s.inputs := rfl
@[simp] theorem setRange_reads : (setRange s).reads = s.reads := rfl
@[simp] theorem setRange_draws : (setRange s).draws = s.draws := rfl
@[simp] theorem setRange_resets : (setRange s).resets = s.resets := rfl

/-! ## returning a read -/

@[simp] theorem returnRead_cfg (v : Word) : (returnRead v s).cfg = s.cfg := rfl
@[simp] theorem returnRead_ie (v : Word) : (returnRead v s).ie = s.ie := rfl
@[simp] theorem returnRead_busy (v : Word) : (returnRead v s).busy = s.busy := rfl
@[simp] theorem returnRead_done (v : Word) : (returnRead v s).done = s.done := rfl
@[simp] theorem returnRead_ovr (v : Word) : (returnRead v s).ovr = s.ovr := rfl
@[simp] theorem returnRead_range (v : Word) : (returnRead v s).range = s.range := rfl
@[simp] theorem returnRead_errcode (v : Word) : (returnRead v s).errcode = s.errcode := rfl
@[simp] theorem returnRead_lastcmd (v : Word) : (returnRead v s).lastcmd = s.lastcmd := rfl
@[simp] theorem returnRead_pend (v : Word) : (returnRead v s).pend = s.pend := rfl
@[simp] theorem returnRead_nreg (v : Word) : (returnRead v s).nreg = s.nreg := rfl
@[simp] theorem returnRead_treg (v : Word) : (returnRead v s).treg = s.treg := rfl
@[simp] theorem returnRead_mrows (v : Word) : (returnRead v s).mrows = s.mrows := rfl
@[simp] theorem returnRead_mcols (v : Word) : (returnRead v s).mcols = s.mcols := rfl
@[simp] theorem returnRead_matrow (v : Word) : (returnRead v s).matrow = s.matrow := rfl
@[simp] theorem returnRead_matcol (v : Word) : (returnRead v s).matcol = s.matcol := rfl
@[simp] theorem returnRead_vsel (v : Word) : (returnRead v s).vsel = s.vsel := rfl
@[simp] theorem returnRead_vidx (v : Word) : (returnRead v s).vidx = s.vidx := rfl
@[simp] theorem returnRead_vlen (v : Word) : (returnRead v s).vlen = s.vlen := rfl
@[simp] theorem returnRead_hrow (v : Word) : (returnRead v s).hrow = s.hrow := rfl
@[simp] theorem returnRead_hidx (v : Word) : (returnRead v s).hidx = s.hidx := rfl
@[simp] theorem returnRead_hrows (v : Word) : (returnRead v s).hrows = s.hrows := rfl
@[simp] theorem returnRead_hm (v : Word) : (returnRead v s).hm = s.hm := rfl
@[simp] theorem returnRead_mat (v : Word) : (returnRead v s).mat = s.mat := rfl
@[simp] theorem returnRead_vreg (v : Word) : (returnRead v s).vreg = s.vreg := rfl
@[simp] theorem returnRead_hist (v : Word) : (returnRead v s).hist = s.hist := rfl
@[simp] theorem returnRead_rstN (v : Word) : (returnRead v s).rstN = s.rstN := rfl
@[simp] theorem returnRead_inputs (v : Word) : (returnRead v s).inputs = s.inputs := rfl
@[simp] theorem returnRead_reads (v : Word) : (returnRead v s).reads = v :: s.reads := rfl
@[simp] theorem returnRead_draws (v : Word) : (returnRead v s).draws = s.draws := rfl
@[simp] theorem returnRead_resets (v : Word) : (returnRead v s).resets = s.resets := rfl

/-! ## a host write of STATUS (rule R91) -/

@[simp] theorem writeStatus_cfg (v : Word) : (writeStatus v s).cfg = s.cfg := rfl
@[simp] theorem writeStatus_ie (v : Word) : (writeStatus v s).ie = s.ie := rfl
@[simp] theorem writeStatus_busy (v : Word) : (writeStatus v s).busy = s.busy := rfl
@[simp] theorem writeStatus_done (v : Word) : (writeStatus v s).done = (s.done && !v.getLsbD 1) := rfl
@[simp] theorem writeStatus_ovr (v : Word) : (writeStatus v s).ovr = (s.ovr && !v.getLsbD 3) := rfl
@[simp] theorem writeStatus_range (v : Word) : (writeStatus v s).range = (s.range && !v.getLsbD 4) := rfl
@[simp] theorem writeStatus_errcode (v : Word) : (writeStatus v s).errcode = s.errcode := rfl
@[simp] theorem writeStatus_lastcmd (v : Word) : (writeStatus v s).lastcmd = s.lastcmd := rfl
@[simp] theorem writeStatus_pend (v : Word) : (writeStatus v s).pend = s.pend := rfl
@[simp] theorem writeStatus_nreg (v : Word) : (writeStatus v s).nreg = s.nreg := rfl
@[simp] theorem writeStatus_treg (v : Word) : (writeStatus v s).treg = s.treg := rfl
@[simp] theorem writeStatus_mrows (v : Word) : (writeStatus v s).mrows = s.mrows := rfl
@[simp] theorem writeStatus_mcols (v : Word) : (writeStatus v s).mcols = s.mcols := rfl
@[simp] theorem writeStatus_matrow (v : Word) : (writeStatus v s).matrow = s.matrow := rfl
@[simp] theorem writeStatus_matcol (v : Word) : (writeStatus v s).matcol = s.matcol := rfl
@[simp] theorem writeStatus_vsel (v : Word) : (writeStatus v s).vsel = s.vsel := rfl
@[simp] theorem writeStatus_vidx (v : Word) : (writeStatus v s).vidx = s.vidx := rfl
@[simp] theorem writeStatus_vlen (v : Word) : (writeStatus v s).vlen = s.vlen := rfl
@[simp] theorem writeStatus_hrow (v : Word) : (writeStatus v s).hrow = s.hrow := rfl
@[simp] theorem writeStatus_hidx (v : Word) : (writeStatus v s).hidx = s.hidx := rfl
@[simp] theorem writeStatus_hrows (v : Word) : (writeStatus v s).hrows = s.hrows := rfl
@[simp] theorem writeStatus_hm (v : Word) : (writeStatus v s).hm = s.hm := rfl
@[simp] theorem writeStatus_mat (v : Word) : (writeStatus v s).mat = s.mat := rfl
@[simp] theorem writeStatus_vreg (v : Word) : (writeStatus v s).vreg = s.vreg := rfl
@[simp] theorem writeStatus_hist (v : Word) : (writeStatus v s).hist = s.hist := rfl
@[simp] theorem writeStatus_rstN (v : Word) : (writeStatus v s).rstN = s.rstN := rfl
@[simp] theorem writeStatus_inputs (v : Word) : (writeStatus v s).inputs = s.inputs := rfl
@[simp] theorem writeStatus_reads (v : Word) : (writeStatus v s).reads = s.reads := rfl
@[simp] theorem writeStatus_draws (v : Word) : (writeStatus v s).draws = s.draws := rfl
@[simp] theorem writeStatus_resets (v : Word) : (writeStatus v s).resets = s.resets := rfl

end Sys2Proof.Machine
end

