-- ==== Sys2Proof/Laws/Ops.lean ====
section
/-! SUPPORT. What each shared operation can do: attempting a command, the sizes once their checks have passed, and the
elements of MAT, VREG and HIST after each whole-memory write. -/

namespace Sys2Proof.Machine

open Sys2Proof

/-! ## Attempting a command -/

@[simp] theorem firstError_nil : firstError [] = none := rfl

theorem firstError_cons (failed : Bool) (code : ErrCode) (rest : List (Bool × ErrCode)) :
    firstError ((failed, code) :: rest) = if failed then some code else firstError rest := rfl

/-- No check fails exactly when every check passes. -/
theorem firstError_eq_none {checks : List (Bool × ErrCode)} : firstError checks = none ↔ ∀ c ∈ checks, c.1 = false := by
  induction checks with
  | nil => simp
  | cons c t ih =>
    obtain ⟨failed, code⟩ := c
    cases failed <;> simp [firstError_cons, ih]

/-- The code reported is that of one of the checks. -/
theorem firstError_mem {checks : List (Bool × ErrCode)} {code : ErrCode} (h : firstError checks = some code) :
    (true, code) ∈ checks := by
  induction checks with
  | nil => simp at h
  | cons c t ih =>
    obtain ⟨failed, code'⟩ := c
    cases failed
    · exact List.mem_cons_of_mem _ (ih h)
    · simp only [firstError_cons, if_true, Option.some.injEq] at h
      simp [h]

theorem attempt_ok {checks : List (Bool × ErrCode)} (written s : State) (h : firstError checks = none) :
    attempt checks written s = .next (complete .none written) := by simp [attempt, h]

theorem attempt_raise {checks : List (Bool × ErrCode)} {code : ErrCode} (written s : State)
    (h : firstError checks = some code) : attempt checks written s = .next (complete code s) := by simp [attempt, h]

/-- Everything `attempt` can do: it answers a next state, in which the command has completed either with all its
writes and code 0 or with the code of a failed check and none of them. -/
theorem attempt_cases {checks : List (Bool × ErrCode)} {written s : State}
    {o : Host.Outcome State Fault Refusal} (h : attempt checks written s = o) :
    (firstError checks = none ∧ o = .next (complete .none written)) ∨
      ∃ code, (true, code) ∈ checks ∧ firstError checks = some code ∧ o = .next (complete code s) := by
  cases hc : firstError checks with
  | none => exact .inl ⟨rfl, by rw [← h, attempt_ok _ _ hc]⟩
  | some code => exact .inr ⟨code, firstError_mem hc, rfl, by rw [← h, attempt_raise _ _ hc]⟩

/-! ## Sizes -/

theorem checkSizeN_passes {s : State} : (checkSizeN s).1 = false ↔ 0 < s.nreg.toInt := by simp [checkSizeN]

theorem checkCapN_passes {s : State} : (checkCapN s).1 = false ↔ s.nreg.toInt ≤ (s.cfg.nmax : Int) := by
  simp [checkCapN]

theorem checkSizeT_passes {s : State} : (checkSizeT s).1 = false ↔ 0 ≤ s.treg.toInt := by simp [checkSizeT]

theorem checkCapT_passes {s : State} : (checkCapT s).1 = false ↔ s.treg.toInt + 1 ≤ (s.cfg.hdepth : Int) := by
  simp [checkCapT]

theorem checkDims_passes {k : VNum} {s : State} : (checkDims k s).1 = false ↔
    s.mrows.toNat = stateLen s ∧ s.mcols.toNat = stateLen s ∧ (vlenOf s k).toNat = stateLen s := by
  simp [checkDims]

theorem checkDmax_passes {n : Nat} {s : State} : (checkDmax n s).1 = false ↔ n ≤ s.cfg.dmax := by simp [checkDmax]

theorem cellCount_le {s : State} (h : gridSize s ≤ s.cfg.nmax) : cellCount s ≤ s.cfg.cmax :=
  Nat.mul_le_mul h h

theorem stateLen_le {s : State} (h : gridSize s ≤ s.cfg.nmax) : stateLen s ≤ s.cfg.dmax :=
  Nat.mul_le_mul_left 2 (cellCount_le h)

/-- Once both checks on N have passed, N = NREG with 1 ≤ N ≤ NMAX, K ≤ CMAX and D ≤ DMAX (rule R167). -/
theorem sizes_of_checks {s : State} (h1 : 0 < s.nreg.toInt) (h2 : s.nreg.toInt ≤ (s.cfg.nmax : Int)) :
    (gridSize s : Int) = s.nreg.toInt ∧ 1 ≤ gridSize s ∧ gridSize s ≤ s.cfg.nmax ∧ cellCount s ≤ s.cfg.cmax ∧
      stateLen s ≤ s.cfg.dmax := by
  have hg : (gridSize s : Int) = s.nreg.toInt := Int.toNat_of_nonneg (by omega)
  have hle : gridSize s ≤ s.cfg.nmax := by omega
  exact ⟨hg, by omega, hle, cellCount_le hle, stateLen_le hle⟩

/-- A number below 2^31 is the signed reading of its word. -/
theorem toInt_ofNat_small {n : Nat} (h : n < 2 ^ 31) : (BitVec.ofNat 32 n).toInt = (n : Int) := by
  rw [BitVec.toInt_eq_toNat_cond, BitVec.toNat_ofNat, Nat.mod_eq_of_lt (by omega), if_pos (by omega)]

/-- The word of a number that is a register's signed reading is that register. -/
theorem ofNat_of_toInt {w : Word} {n : Nat} (h : w.toInt = (n : Int)) : BitVec.ofNat 32 n = w := by
  have hlt := BitVec.toInt_lt (x := w)
  exact BitVec.eq_of_toInt_eq (by rw [toInt_ofNat_small (by omega), h])

theorem gridSize_le {s : State} (h : s.nreg.toInt ≤ (s.cfg.nmax : Int)) : gridSize s ≤ s.cfg.nmax := by
  unfold gridSize
  omega

theorem gridSize_le_dmax {s : State} (h : gridSize s ≤ s.cfg.nmax) : gridSize s ≤ s.cfg.dmax := by
  have h1 : s.cfg.nmax ≤ s.cfg.nmax * s.cfg.nmax := Nat.le_mul_self _
  unfold Config.dmax
  omega

/-- A quadrant lies within D rows and D columns. -/
theorem offsets_le (b : Quadrant) (K : Nat) : rowOffset b K + K ≤ 2 * K ∧ colOffset b K + K ≤ 2 * K := by
  unfold rowOffset colOffset
  constructor <;> split <;> omega

/-! ## Elements after the whole-memory writes -/

/-- MAT after a matrix has been loaded: the matrix in its corner, 0 elsewhere (rules R202, R203, R232). -/
theorem matBit_loadMat {s : State} {n i j : Nat} (M : GfMat) (hn : n ≤ s.cfg.dmax) (hj : j < s.cfg.dmax) :
    matBit (loadMat n M s) i j = (decide (i < n) && decide (j < n) && M i j) := by
  have hm := mem_onesOf_address (dmax := s.cfg.dmax) (ro := 0) (co := 0) (K := n) (i := i) (j := j) (M := M)
    (by omega) hj
  simp only [matBit, loadMat_mat, loadMat_cfg, Memory.bit_writeAll, Memory.bit_cleared, hm]
  by_cases h1 : i < n <;> by_cases h2 : j < n <;> cases M i j <;> simp [h1, h2]

/-- MAT after `Acc`: each element of the quadrant XORed with its entry of the operator, the rest as before
(rule R222). -/
theorem matBit_accumulate {s : State} {ro co K i j : Nat} (op : GfMat) (hc : co + K ≤ s.cfg.dmax)
    (hj : j < s.cfg.dmax) :
    matBit (accumulate ro co K op s) i j =
      (matBit s i j ^^
        (decide (ro ≤ i ∧ i < ro + K ∧ co ≤ j ∧ j < co + K) && op (i - ro) (j - co))) := by
  have hm := mem_onesOf_address (dmax := s.cfg.dmax) (ro := ro) (co := co) (K := K) (i := i) (j := j) (M := op) hc hj
  simp only [matBit, accumulate_mat, accumulate_cfg, Memory.bit_writeAll, hm]
  by_cases h : ro ≤ i ∧ i < ro + K ∧ co ≤ j ∧ j < co + K
  · cases op (i - ro) (j - co) <;> simp [h]
  · rw [if_neg fun h' => h ⟨h'.1, h'.2.1, h'.2.2.1, h'.2.2.2.1⟩]
    simp [h]

/-- A vector register after a list has been written to one (rules R180, R182). -/
theorem vregBit_setVreg (s : State) (d k : VNum) (y : List Bool) (i : Nat) :
    vregBit (setVreg d y s) k i = if k = d then listBit y i else vregBit s k i := by
  simp only [vregBit, setVreg_vreg, Quad.get_set]
  split
  · exact Memory.bit_ofList y i
  · rfl

theorem vlenOf_writeVec (s : State) (d k : VNum) (y : List Bool) :
    vlenOf (writeVec d y s) k = if k = d then BitVec.ofNat 32 y.length else vlenOf s k := by
  simp only [vlenOf, writeVec_vlen, Quad.get_set]

theorem vregBit_writeVec (s : State) (d k : VNum) (y : List Bool) (i : Nat) :
    vregBit (writeVec d y s) k i = if k = d then listBit y i else vregBit s k i :=
  vregBit_setVreg s d k y i

theorem codesRow_code (M : Nat) (S : List Bool) (p : Nat) :
    (codesRow M S).code p = if p < M then pauliCode (listBit S p) (listBit S (M + p)) else 0 := by
  rw [codesRow, Memory.code_ofList, cellCodes_getD]

@[simp] theorem writeCodes_length (r M : Nat) (S : List Bool) (rows : List (Memory Code)) :
    (writeCodes r M S rows).length = rows.length := by simp [writeCodes]

theorem writeCodes_getElem? (r M : Nat) (S : List Bool) (rows : List (Memory Code)) (q : Nat) :
    (writeCodes r M S rows)[q]? = if q = r ∧ r < rows.length then some (codesRow M S) else rows[q]? := by
  unfold writeCodes
  rw [List.getElem?_set]
  by_cases hq : r = q
  · subst hq
    by_cases hr : r < rows.length
    · simp [hr]
    · simp [hr]
  · rw [if_neg hq, if_neg fun h => hq h.1.symm]

/-! ## The loop of RUN -/

/-- The state RUN ends in: `n` applications of the operator (rules R274, R277). -/
theorem runLoop_state (D K : Nat) (M : GfMat) (n r : Nat) (S : List Bool) (rows : List (Memory Code)) :
    (runLoop D K M n r S rows).1 = applyTimes D M n S := by
  induction n generalizing r S rows with
  | zero => rfl
  | succ n ih => exact ih _ _ _

@[simp] theorem runLoop_length (D K : Nat) (M : GfMat) (n r : Nat) (S : List Bool) (rows : List (Memory Code)) :
    (runLoop D K M n r S rows).2.length = rows.length := by
  induction n generalizing r S rows with
  | zero => rfl
  | succ n ih => exact (ih _ _ _).trans (writeCodes_length _ _ _ _)

/-- The rows RUN writes: row r − 1 + k holds the codes of the state after k applications (rules R274, R277). -/
theorem runLoop_getElem? (D K : Nat) (M : GfMat) (n r : Nat) (S : List Bool) (rows : List (Memory Code)) (q : Nat) :
    (runLoop D K M n r S rows).2[q]? =
      if r ≤ q ∧ q < r + n ∧ q < rows.length then some (codesRow K (applyTimes D M (q - r + 1) S)) else rows[q]? := by
  induction n generalizing r S rows with
  | zero => rw [if_neg (by omega)]; rfl
  | succ n ih =>
    have hstep : runLoop D K M (n + 1) r S rows =
        runLoop D K M n (r + 1) (applyMat D M S) (writeCodes r K (applyMat D M S) rows) := rfl
    rw [hstep, ih, writeCodes_length, writeCodes_getElem?]
    by_cases hq : q = r
    · subst hq
      rw [if_neg (by omega)]
      by_cases hl : q < rows.length
      · rw [if_pos ⟨rfl, hl⟩, if_pos ⟨Nat.le_refl _, by omega, hl⟩, Nat.sub_self]
        rfl
      · rw [if_neg (fun h => hl h.2), if_neg (by omega)]
    · by_cases hin : r + 1 ≤ q ∧ q < r + 1 + n ∧ q < rows.length
      · rw [if_pos hin, if_pos ⟨by omega, by omega, hin.2.2⟩, show q - r + 1 = (q - (r + 1) + 1) + 1 by omega]
        rfl
      · rw [if_neg hin, if_neg (fun h => hq h.1), if_neg (by omega)]

/-! ## The canonical form is kept -/

theorem codesRow_wf {M size : Nat} (S : List Bool) (h : M ≤ size) : (codesRow M S).wf 0 size :=
  Memory.wf_ofList 0 (by simpa using h)

theorem writeCodes_wf {r M size : Nat} (S : List Bool) {rows : List (Memory Code)} (hM : M ≤ size)
    (h : ∀ m ∈ rows, m.wf 0 size) : ∀ m ∈ writeCodes r M S rows, m.wf 0 size := by
  intro m hm
  rcases List.mem_or_eq_of_mem_set hm with hm | rfl
  · exact h m hm
  · exact codesRow_wf S hM

theorem runLoop_wf {D K size : Nat} (M : GfMat) (n r : Nat) (S : List Bool) {rows : List (Memory Code)}
    (hK : K ≤ size) (h : ∀ m ∈ rows, m.wf 0 size) : ∀ m ∈ (runLoop D K M n r S rows).2, m.wf 0 size := by
  induction n generalizing r S rows with
  | zero => exact h
  | succ n ih => exact ih _ _ (writeCodes_wf _ hK h)

theorem loadMat_wf {s : State} {n : Nat} (M : GfMat) (hn : n ≤ s.cfg.dmax) :
    (loadMat n M s).mat.wf false (s.cfg.dmax * s.cfg.dmax) :=
  Memory.wf_writeAll false _ (Memory.wf_cleared false _) fun _ ha =>
    onesOf_lt (by omega) (by omega) ha

theorem accumulate_wf {s : State} {ro co K : Nat} (op : GfMat) (h : s.mat.wf false (s.cfg.dmax * s.cfg.dmax))
    (hr : ro + K ≤ s.cfg.dmax) (hc : co + K ≤ s.cfg.dmax) :
    (accumulate ro co K op s).mat.wf false (s.cfg.dmax * s.cfg.dmax) :=
  Memory.wf_writeAll false _ h fun _ ha => onesOf_lt hr hc ha

theorem setVreg_wf {s : State} {d : VNum} {y : List Bool} (hy : y.length ≤ s.cfg.dmax)
    (h : ∀ k, (s.vreg.get k).wf false s.cfg.dmax) (k : VNum) : ((setVreg d y s).vreg.get k).wf false s.cfg.dmax := by
  rw [setVreg_vreg, Quad.get_set]
  split
  · exact Memory.wf_ofList false hy
  · exact h k

end Sys2Proof.Machine
end

