-- ==== Sys2Proof/Laws/Exec.lean ====
section
/-! SUPPORT. What a step can do, said once: every command is one `attempt` of its checks and its writes, and a step is
one of a host access, a level of rst_n, an engine step or nothing. -/

namespace Sys2Proof.Machine

open Sys2Proof

/-- The checks of a command, in the order of rule R308's table. -/
def checksOf (i : Instr) (s : State) : List (Bool × ErrCode) :=
  match i with
  | .nop => []
  | .mv _ k =>
    [ checkDmax s.mrows.toNat s, checkDmax s.mcols.toNat s, checkDmax (vlenOf s k).toNat s,
      (decide ((vlenOf s k).toNat ≠ s.mcols.toNat), .dim) ]
  | .vclr _ => []
  | .shiftgenL => gridChecks s
  | .shiftgenR => gridChecks s
  | .matclr => []
  | .opaccI _ => gridChecks s
  | .opaccHl _ => gridChecks s
  | .opaccHr _ => gridChecks s
  | .opaccVu _ => gridChecks s
  | .opaccVd _ => gridChecks s
  | .build => gridChecks s
  | .encode k => [checkDmax (vlenOf s k).toNat s, (decide ((vlenOf s k).toNat % 2 = 1), .parity)]
  | .step k => [checkSizeN s, checkCapN s, checkDims k s]
  | .run k => [checkSizeN s, checkSizeT s, checkCapN s, checkCapT s, checkDims k s]

/-- The state a command leaves, before its completion, where all its checks pass. -/
def writtenBy (i : Instr) (s : State) : State :=
  match i with
  | .nop => s
  | .mv d k => writeVec d (productList k s) s
  | .vclr d => setVreg d [] s
  | .shiftgenL => setDims (gridSize s) (gridSize s) (loadMat (gridSize s) (shiftLeft (gridSize s)) s)
  | .shiftgenR => setDims (gridSize s) (gridSize s) (loadMat (gridSize s) (shiftRight (gridSize s)) s)
  | .matclr => { s with mat := Memory.cleared }
  | .opaccI b => accumulateGrid .ident b s
  | .opaccHl b => accumulateGrid .hLeft b s
  | .opaccHr b => accumulateGrid .hRight b s
  | .opaccVu b => accumulateGrid .vUp b s
  | .opaccVd b => accumulateGrid .vDown b s
  | .build => setDims (stateLen s) (stateLen s) (loadMat (stateLen s) (evolutionMat (gridSize s)) s)
  | .encode k =>
    setExtent 1 ((vlenOf s k).toNat / 2)
      { s with hist := writeCodes 0 ((vlenOf s k).toNat / 2) (vectorList s k (vlenOf s k).toNat) s.hist }
  | .step k =>
    let y := applyMat (stateLen s) (matBit s) (stateVector k s)
    setExtent 1 (cellCount s) { setVreg k y s with hist := writeCodes 0 (cellCount s) y s.hist }
  | .run k =>
    let S := stateVector k s
    let final := runLoop (stateLen s) (cellCount s) (matBit s) (stepCount s) 1 S (writeCodes 0 (cellCount s) S s.hist)
    setExtent (stepCount s + 1) (cellCount s) { setVreg k final.1 s with hist := final.2 }

/-- Every command is one attempt of its checks and its writes. -/
theorem exec_eq_attempt (i : Instr) (s : State) : exec i s = attempt (checksOf i s) (writtenBy i s) s := by
  cases i <;> rfl

/-- Everything a command can do: it completes with all its writes and code 0, or with the code of its first failed
check and none of them. -/
theorem exec_cases (i : Instr) (s : State) :
    (firstError (checksOf i s) = none ∧ exec i s = .next (complete .none (writtenBy i s))) ∨
      ∃ code, (true, code) ∈ checksOf i s ∧ firstError (checksOf i s) = some code ∧
        exec i s = .next (complete code s) := by
  rw [exec_eq_attempt]
  exact attempt_cases rfl

/-- The code of a check is DIM, SIZE, PARITY or CAPACITY. -/
theorem checksOf_code {i : Instr} {s : State} {c : Bool × ErrCode} (h : c ∈ checksOf i s) :
    c.2 = .dim ∨ c.2 = .size ∨ c.2 = .parity ∨ c.2 = .capacity := by
  revert c
  cases i <;> simp [checksOf, gridChecks, checkSizeN, checkCapN, checkSizeT, checkCapT, checkDims, checkDmax]

/-- What no command writes: the parameters, CTRL, OVR, RANGE, the command words, the operand and index registers the
host alone writes, and the model's own fields. -/
theorem writtenBy_untouched (i : Instr) (s : State) :
    writtenBy i s =
      { s with
        mrows := (writtenBy i s).mrows, mcols := (writtenBy i s).mcols, vlen := (writtenBy i s).vlen
        hrows := (writtenBy i s).hrows, hm := (writtenBy i s).hm, mat := (writtenBy i s).mat
        vreg := (writtenBy i s).vreg, hist := (writtenBy i s).hist } := by
  cases i <;> rfl

/-- Everything the engine's turn can do. -/
theorem engineTurn_cases (s : State) :
    ((s.rstN && s.busy) = false ∧ engineTurn s = .next s) ∨
      ((s.rstN && s.busy) = true ∧ decode s.pend = none ∧ engineTurn s = .next (complete .illegal s)) ∨
        ((s.rstN && s.busy) = true ∧ ∃ i, decode s.pend = some i ∧ engineTurn s = exec i s) := by
  unfold engineTurn engineStep
  cases s.rstN && s.busy
  · exact .inl ⟨rfl, rfl⟩
  · cases hd : decode s.pend with
    | none => exact .inr (.inl ⟨rfl, rfl, rfl⟩)
    | some i => exact .inr (.inr ⟨rfl, i, rfl, rfl⟩)

/-- Everything a step can do. -/
theorem step_cases (s : State) :
    (s.inputs = [] ∧ step s = engineTurn s) ∨
      ∃ rest, (∃ a, s.inputs = .read a :: rest ∧ step s = .next (hostRead a { s with inputs := rest })) ∨
        (∃ a v, s.inputs = .write a v :: rest ∧ step s = .next (hostWrite a v { s with inputs := rest })) ∨
        (s.inputs = .engine :: rest ∧ step s = engineTurn { s with inputs := rest }) ∨
        ∃ l, s.inputs = .reset l :: rest ∧ step s = .next (driveReset l { s with inputs := rest }) := by
  unfold step
  cases h : s.inputs with
  | nil => exact .inl ⟨rfl, rfl⟩
  | cons e rest =>
    refine .inr ⟨rest, ?_⟩
    cases e with
    | read a => exact .inl ⟨a, rfl, rfl⟩
    | write a v => exact .inr (.inl ⟨a, v, rfl, rfl⟩)
    | engine => exact .inr (.inr (.inl ⟨rfl, rfl⟩))
    | reset l => exact .inr (.inr (.inr ⟨l, rfl, rfl⟩))

end Sys2Proof.Machine
end

