-- ==== Sys2Proof/Laws/PerInstr.lean ====
section
/-! SUPPORT. Families of facts about commands as syntax, one lemma per constructor. -/

namespace Sys2Proof.Laws.Encoding

open Sys2Proof

/-- The operation code of a command (spec/30_encoding.md rule R122). -/
def opcode : Instr → BitVec 8
  | .nop => 0x00
  | .mv _ _ => 0x01
  | .vclr _ => 0x02
  | .shiftgenL => 0x10
  | .shiftgenR => 0x10
  | .matclr => 0x20
  | .opaccI _ => 0x21
  | .opaccHl _ => 0x21
  | .opaccHr _ => 0x21
  | .opaccVu _ => 0x21
  | .opaccVd _ => 0x21
  | .build => 0x22
  | .encode _ => 0x30
  | .step _ => 0x40
  | .run _ => 0x41

/-- The word of a command carries its operation code in bits [7:0] and 0 in every reserved bit (rules R121, R128). -/
def Statement (i : Instr) : Prop :=
  (Sys2Proof.encode i).extractLsb' 0 8 = opcode i ∧ reservedClear (Sys2Proof.encode i) = true

theorem nop : Statement .nop := by unfold Statement; decide

theorem mv (d s : VNum) : Statement (.mv d s) := by
  revert d s; unfold Statement; decide

theorem vclr (d : VNum) : Statement (.vclr d) := by
  revert d; unfold Statement; decide

theorem shiftgenL : Statement .shiftgenL := by unfold Statement; decide

theorem shiftgenR : Statement .shiftgenR := by unfold Statement; decide

theorem matclr : Statement .matclr := by unfold Statement; decide

theorem opaccI (b : Quadrant) : Statement (.opaccI b) := by
  revert b; unfold Statement; decide

theorem opaccHl (b : Quadrant) : Statement (.opaccHl b) := by
  revert b; unfold Statement; decide

theorem opaccHr (b : Quadrant) : Statement (.opaccHr b) := by
  revert b; unfold Statement; decide

theorem opaccVu (b : Quadrant) : Statement (.opaccVu b) := by
  revert b; unfold Statement; decide

theorem opaccVd (b : Quadrant) : Statement (.opaccVd b) := by
  revert b; unfold Statement; decide

theorem build : Statement .build := by unfold Statement; decide

theorem encode (s : VNum) : Statement (.encode s) := by
  revert s; unfold Statement; decide

theorem step (s : VNum) : Statement (.step s) := by
  revert s; unfold Statement; decide

theorem run (s : VNum) : Statement (.run s) := by
  revert s; unfold Statement; decide

end Sys2Proof.Laws.Encoding
end

