-- ==== Sys2Proof/Laws/Port.lean ====
section
/-! SUPPORT. What a host access can do: the bits of the words it returns, the register it addresses, the elements a
window write changes, and that no access leaves the canonical form. -/

namespace Sys2Proof.Machine

open Sys2Proof

/-! ## Words of bits -/

theorem flagAt_getLsbD {n : Nat} (b : Bool) (hn : n < 32) (i : Nat) :
    (flagAt n b).getLsbD i = (b && decide (i = n)) := by
  cases b
  · simp [flagAt]
  · simp only [flagAt, if_true, BitVec.getLsbD_shiftLeft, Bool.true_and, BitVec.getLsbD_one]
    by_cases h : i = n
    · subst h; simp [hn]
    · by_cases h' : i < n
      · simp [h, h']
      · simp [h, show i - n ≠ 0 by omega]

/-- Bit j of a packed word is `f j`. -/
theorem packBits_getLsbD {n : Nat} (f : Nat → Bool) (hn : n ≤ 32) (i : Nat) :
    (packBits n f).getLsbD i = (decide (i < n) && f i) := by
  induction n with
  | zero => simp [packBits]
  | succ n ih =>
    rw [packBits, BitVec.getLsbD_or, ih (by omega), flagAt_getLsbD _ (by omega)]
    rcases Nat.lt_trichotomy i n with h | h | h
    · simp [h, show i ≠ n by omega, show i < n + 1 by omega]
    · subst h; simp
    · simp [show ¬ i < n by omega, show i ≠ n by omega, show ¬ i < n + 1 by omega]

/-! ## The register addressed -/

/-- The two low bits of paddr are ignored (rule R83). -/
theorem regAt_aligned (a : Offset) : regAt (a &&& 0xFFC) = regAt a := by
  have h : (a &&& 0xFFC).extractLsb' 2 10 = a.extractLsb' 2 10 := by
    ext i hi
    have : i < 10 := hi
    simp only [BitVec.getElem_extractLsb', BitVec.getLsbD_and]
    interval_cases i <;> simp
  rw [regAt, regAt, h]

/-- The register addressed, by the offset as a number. -/
theorem regAt_eq (a : Offset) : regAt a = (findCell (4 * (a.toNat / 4)) registerMap).getD .reserved := by
  have h : (a.extractLsb' 2 10).toNat = a.toNat / 4 := by
    have := a.isLt
    simp only [BitVec.extractLsb'_toNat, Nat.shiftRight_eq_div_pow]
    omega
  rw [regAt, h]

/-- Every offset from 0x078 on is reserved. -/
theorem regAt_high {a : Offset} (h : 0x078 ≤ a.toNat) : regAt a = .reserved := by
  rw [regAt_eq, findCell_eq_none]
  · rfl
  · have hlow : ∀ p ∈ registerMap, p.1 < 0x078 := by decide
    exact fun p hp => by have := hlow p hp; omega

/-- A fact about the register addressed and the offset's word number, checked at the thirty word offsets below 0x078
and at `reserved` for all others. -/
theorem regAt_cases {P : Nat → Reg → Prop} (low : ∀ n < 30, P n ((findCell (4 * n) registerMap).getD .reserved))
    (high : ∀ n, 30 ≤ n → P n .reserved) (a : Offset) : P (a.toNat / 4) (regAt a) := by
  by_cases h : a.toNat / 4 < 30
  · rw [regAt_eq]
    exact low _ h
  · rw [regAt_high (by omega)]
    exact high _ (by omega)

/-- The two registers a busy write reaches are at offsets 0x008 to 0x00F. -/
theorem writableBusy_regAt (a : Offset) : writableBusy (regAt a) = true ↔ 0x008 ≤ a.toNat ∧ a.toNat < 0x010 := by
  have h := regAt_cases (P := fun n r => writableBusy r = true ↔ 2 ≤ n ∧ n < 4) (by decide)
    (fun n hn => by simp [writableBusy]; omega) a
  rw [h]
  omega

/-- The four registers a busy read reaches are at offsets 0x000 to 0x00F. -/
theorem readableBusy_regAt (a : Offset) : readableBusy (regAt a) = true ↔ a.toNat < 0x010 := by
  have h := regAt_cases (P := fun n r => readableBusy r = true ↔ n < 4) (by decide)
    (fun n hn => by simp [readableBusy]; omega) a
  rw [h]
  omega

/-! ## Accesses -/

/-- Everything a host read can do (rules R90, R340). -/
theorem hostRead_cases (a : Offset) (s : State) :
    (s.rstN = false ∧ hostRead a s = s) ∨
      (s.rstN = true ∧ s.busy = true ∧ readableBusy (regAt a) = false ∧
        hostRead a s = { returnRead (Config.busyRead s.draws) s with draws := s.draws + 1 }) ∨
      (s.rstN = true ∧ (s.busy = false ∨ readableBusy (regAt a) = true) ∧
        hostRead a s = returnRead (readReg s (regAt a)) s) := by
  unfold hostRead
  cases s.rstN
  · exact .inl ⟨rfl, rfl⟩
  · cases s.busy <;> cases readableBusy (regAt a) <;> simp

/-- Everything a host write can do (rules R91, R340). -/
theorem hostWrite_cases (a : Offset) (v : Word) (s : State) :
    (s.rstN = false ∧ hostWrite a v s = s) ∨
      (s.rstN = true ∧ s.busy = true ∧ writableBusy (regAt a) = false ∧ hostWrite a v s = { s with ovr := true }) ∨
      (s.rstN = true ∧ (s.busy = false ∨ writableBusy (regAt a) = true) ∧
        hostWrite a v s = writeReg v s (regAt a)) := by
  unfold hostWrite
  cases s.rstN
  · exact .inl ⟨rfl, rfl⟩
  · cases s.busy <;> cases writableBusy (regAt a) <;> simp

/-- A host read while idle and out of reset returns the register. -/
theorem hostRead_idle (a : Offset) {s : State} (hr : s.rstN = true) (hb : s.busy = false) :
    hostRead a s = returnRead (readReg s (regAt a)) s := by simp [hostRead, hr, hb]

/-- A host write while idle and out of reset is a write of the register. -/
theorem hostWrite_idle (a : Offset) (v : Word) {s : State} (hr : s.rstN = true) (hb : s.busy = false) :
    hostWrite a v s = writeReg v s (regAt a) := by simp [hostWrite, hr, hb]

/-! ## Elements after a window write -/

theorem mem_wordSpan {base size i : Nat} : i ∈ wordSpan base size ↔ base ≤ i ∧ i < base + 32 ∧ i < size := by
  simp only [wordSpan, List.mem_filter, List.mem_map, List.mem_range, decide_eq_true_eq]
  constructor
  · rintro ⟨⟨j, hj, rfl⟩, h⟩; omega
  · rintro ⟨h1, h2, h3⟩; exact ⟨⟨i - base, by omega, by omega⟩, h3⟩

/-- MAT after a write of MATELEM inside the matrix (rule R92). -/
theorem matBit_matElemWrite {s : State} {v : Word} {i j : Nat}
    (h : s.matrow.toNat < s.cfg.dmax ∧ s.matcol.toNat < s.cfg.dmax) (hj : j < s.cfg.dmax) :
    matBit (matElemWrite v s) i j =
      if i = s.matrow.toNat ∧ j = s.matcol.toNat then v.getLsbD 0 else matBit s i j := by
  simp only [matElemWrite, if_pos h, matBit, Memory.bit_write, address_inj h.2 hj]
  by_cases hi : i = s.matrow.toNat ∧ j = s.matcol.toNat
  · rw [if_pos hi, if_pos ⟨hi.1.symm, hi.2.symm⟩]
  · rw [if_neg hi, if_neg fun h' => hi ⟨h'.1.symm, h'.2.symm⟩]

/-- MAT after a write of MATWORD inside the matrix (rule R93). -/
theorem matBit_matWordWrite {s : State} {v : Word} {i j : Nat}
    (h : s.matrow.toNat < s.cfg.dmax ∧ wordBase s.matcol < s.cfg.dmax) (hj : j < s.cfg.dmax) :
    matBit (matWordWrite v s) i j =
      if i = s.matrow.toNat ∧ wordBase s.matcol ≤ j ∧ j < wordBase s.matcol + 32
      then v.getLsbD (j - wordBase s.matcol) else matBit s i j := by
  simp only [matWordWrite, if_pos h, matBit, Memory.bit_writeAll]
  have hm : i * s.cfg.dmax + j ∈ (wordSpan (wordBase s.matcol) s.cfg.dmax).map (s.matrow.toNat * s.cfg.dmax + ·) ↔
      i = s.matrow.toNat ∧ wordBase s.matcol ≤ j ∧ j < wordBase s.matcol + 32 := by
    simp only [List.mem_map, mem_wordSpan]
    constructor
    · rintro ⟨c, ⟨h1, h2, h3⟩, he⟩
      obtain ⟨rfl, rfl⟩ := (address_inj h3 hj).1 he
      exact ⟨rfl, h1, h2⟩
    · rintro ⟨rfl, h1, h2⟩
      exact ⟨j, ⟨h1, h2, hj⟩, rfl⟩
  simp only [hm]
  split
  · next hi => rw [hi.1, Nat.add_sub_cancel_left]
  · rfl

/-- A vector register after a write of VELEM inside it (rule R94). -/
theorem vregBit_vElemWrite {s : State} {v : Word} (h : s.vidx.toNat < s.cfg.dmax) (k : VNum) (i : Nat) :
    vregBit (vElemWrite v s) k i = if k = s.vsel ∧ i = s.vidx.toNat then v.getLsbD 0 else vregBit s k i := by
  simp only [vElemWrite, if_pos h, vregBit, Quad.get_set]
  by_cases hk : k = s.vsel
  · subst hk
    simp only [if_true, Memory.bit_write, true_and, eq_comm]
  · simp [hk]

/-- A vector register after a write of VWORD inside it (rule R95). -/
theorem vregBit_vWordWrite {s : State} {v : Word} (h : wordBase s.vidx < s.cfg.dmax) (k : VNum) (i : Nat) :
    vregBit (vWordWrite v s) k i =
      if k = s.vsel ∧ wordBase s.vidx ≤ i ∧ i < wordBase s.vidx + 32 ∧ i < s.cfg.dmax
      then v.getLsbD (i - wordBase s.vidx) else vregBit s k i := by
  simp only [vWordWrite, if_pos h, vregBit, Quad.get_set]
  by_cases hk : k = s.vsel
  · subst hk
    simp only [if_true, Memory.bit_writeAll, mem_wordSpan, true_and]
  · simp [hk]

/-! ## The canonical form is kept -/

theorem matElemWrite_wf {s : State} (v : Word) (h : s.mat.wf false (s.cfg.dmax * s.cfg.dmax)) :
    (matElemWrite v s).mat.wf false (s.cfg.dmax * s.cfg.dmax) := by
  unfold matElemWrite
  split
  · next hin => exact Memory.wf_write false _ h (address_lt hin.1 hin.2)
  · exact h

theorem matWordWrite_wf {s : State} (v : Word) (h : s.mat.wf false (s.cfg.dmax * s.cfg.dmax)) :
    (matWordWrite v s).mat.wf false (s.cfg.dmax * s.cfg.dmax) := by
  unfold matWordWrite
  split
  · next hin =>
    refine Memory.wf_writeAll false _ h fun a ha => ?_
    obtain ⟨c, hc, rfl⟩ := List.mem_map.1 ha
    exact address_lt hin.1 (mem_wordSpan.1 hc).2.2
  · exact h

theorem vElemWrite_wf {s : State} (v : Word) (h : ∀ k, (s.vreg.get k).wf false s.cfg.dmax) (k : VNum) :
    ((vElemWrite v s).vreg.get k).wf false s.cfg.dmax := by
  unfold vElemWrite
  split
  · next hin =>
    simp only [Quad.get_set]
    split
    · exact Memory.wf_write false _ (h _) hin
    · exact h k
  · exact h k

theorem vWordWrite_wf {s : State} (v : Word) (h : ∀ k, (s.vreg.get k).wf false s.cfg.dmax) (k : VNum) :
    ((vWordWrite v s).vreg.get k).wf false s.cfg.dmax := by
  unfold vWordWrite
  split
  · next hin =>
    simp only [Quad.get_set]
    split
    · exact Memory.wf_writeAll false _ (h _) fun a ha => (mem_wordSpan.1 ha).2.2
    · exact h k
  · exact h k

/-- The memories right after reset are in canonical form, whatever the parameters. -/
theorem resetOf_wf (c : Config) (n : Nat) :
    (State.resetOf c n).mat.wf false (c.dmax * c.dmax) ∧ (∀ k, ((State.resetOf c n).vreg.get k).wf false c.dmax) ∧
      ∀ m ∈ (State.resetOf c n).hist, m.wf 0 c.cmax := by
  have hall : ∀ b : VNum, b = 0 ∨ b = 1 ∨ b = 2 ∨ b = 3 := by decide
  refine ⟨Memory.wf_drawn _ _ _, fun k => ?_, fun m hm => ?_⟩
  · rcases hall k with rfl | rfl | rfl | rfl <;> exact Memory.wf_drawn _ _ _
  · obtain ⟨r, -, rfl⟩ := List.mem_map.1 hm
    exact Memory.wf_drawn _ _ _

end Sys2Proof.Machine
end

