-- ==== Sys2Proof/Machine/Notation.lean ====
section
/-! DEFINITION. The host-program notation of spec/30_encoding.md rule R133, as lists of inputs. -/

namespace Sys2Proof.Machine

open Sys2Proof

/-- `wr NAME, v`, with the offset of NAME in rule R84. -/
def wr (offset : Offset) (v : Word) : List Event := [.write offset v]

/-- `rd NAME`. -/
def rd (offset : Offset) : List Event := [.read offset]

/-- `cmd <assembly>`: a write of the command's word to CMD. -/
def cmd (i : Instr) : List Event := wr 0x010 (encode i)

/-- `wait`, in a run in which `polls` reads of STATUS return BUSY = 1 before the engine steps. -/
def wait (polls : Nat) : List Event := List.replicate polls (.read 0x00C) ++ [.engine, .read 0x00C]

/-- `exec <assembly>`, with `polls` busy reads of STATUS. -/
def execCmd (polls : Nat) (i : Instr) : List Event := cmd i ++ wait polls

/-- `setn n`. -/
def setn (n : Word) : List Event := wr 0x014 n

/-- `sett t`. -/
def sett (t : Word) : List Event := wr 0x018 t

/-- `setdims m, n`. -/
def setdims (m n : Word) : List Event := wr 0x01C m ++ wr 0x020 n

/-- `vsel k`. -/
def vsel (k : VNum) : List Event := wr 0x040 (k.setWidth 32)

/-- `vlen k, len`. -/
def vlen (k : VNum) (len : Word) : List Event := vsel k ++ wr 0x050 len

/-- `vbit k, i, b`. -/
def vbit (k : VNum) (i b : Word) : List Event := vsel k ++ wr 0x044 i ++ wr 0x048 b

/-- `vword k, w, x`. -/
def vword (k : VNum) (w x : Word) : List Event := vsel k ++ wr 0x044 (32 * w) ++ wr 0x04C x

/-- `mbit i, j, b`. -/
def mbit (i j b : Word) : List Event := wr 0x030 i ++ wr 0x034 j ++ wr 0x038 b

/-- `hcode r, p`. -/
def hcode (r p : Word) : List Event := wr 0x060 r ++ wr 0x064 p ++ rd 0x068

/-- `clrst`: clears DONE, OVR and RANGE. -/
def clrst : List Event := wr 0x00C 0x0000001A

end Sys2Proof.Machine
end

