-- ==== Sys2Proof/Tests/Slice0.lean ====
section
/-! SUPPORT. Tests of the model. Every expected value is the spec's: the encodings of spec/30_encoding.md and the
vectors of spec/95_test_vectors.md. The witnesses at the end meet the hypotheses of the statements. -/

namespace Sys2Proof.Tests

open Sys2Proof Sys2Proof.Machine

/-! ## Helpers -/

/-- The state a command leaves. -/
def after (i : Instr) (s : State) : State :=
  match exec i s with
  | .next t => t
  | _ => s

/-- The state one step leaves. -/
def next (s : State) : State :=
  match step s with
  | .next t => t
  | _ => s

/-- A block of the given size right after reset, with every memory then cleared. -/
def blank (nmax hdepth : Nat) : State :=
  { State.resetOf { nmax := nmax, hdepth := hdepth } 0 with
    mat := Memory.cleared
    vreg := { r0 := Memory.cleared, r1 := Memory.cleared, r2 := Memory.cleared, r3 := Memory.cleared }
    hist := List.replicate hdepth Memory.cleared }

/-- The bits of a word, as a memory. -/
def bits (w : Word) : Memory Bool := Memory.ofList false ((List.range 32).map w.getLsbD)

/-- The first word of each of the first n rows of MAT, as MATWORD reads them. -/
def rows (n : Nat) (s : State) : List Word :=
  (List.range n).map fun i => matWordRead { s with matrow := BitVec.ofNat 32 i, matcol := 0 }

/-- The first word of vector register k, as VWORD reads it. -/
def vectorWord (k : VNum) (s : State) : Word := vWordRead { s with vsel := k, vidx := 0 }

/-- The first word of each of the first n history rows, as HWORD reads them. -/
def historyWords (n : Nat) (s : State) : List Word :=
  (List.range n).map fun r => hWordRead { s with hrow := BitVec.ofNat 32 r, hidx := 0 }

/-- Grid size n in a block of NMAX = n. -/
def grid (n : Nat) : State := { blank n 4 with nreg := BitVec.ofNat 32 n }

/-- Grid size 3 with T(3) in MAT and bit 4 of v0 set (section 2.7 of the vectors). -/
def grid3 : State :=
  { after .build (grid 3) with
    vreg := { (blank 3 4).vreg with r0 := bits 0x10 }, vlen := { r0 := 18, r1 := 0, r2 := 0, r3 := 0 } }

/-- Grid size 1 with T(1) in MAT and X in v0. -/
def grid1 : State :=
  { after .build (grid 1) with
    vreg := { (blank 1 4).vreg with r0 := bits 0x1 }, vlen := { r0 := 2, r1 := 0, r2 := 0, r3 := 0 } }

/-- The set-up of section 2.3 of the vectors, in a block of DMAX = 8. -/
def product : State :=
  { blank 2 4 with
    mat := Memory.writeAll false [0, 2, 3, 9, 10, 16, 17, 18, 19] (fun _ => true) Memory.cleared
    mrows := 3, mcols := 4
    vreg := { (blank 2 4).vreg with r0 := bits 0xB }, vlen := { r0 := 4, r1 := 0, r2 := 0, r3 := 0 } }

/-! ## Decoding: words written out from rules R121 to R127, bits 31 … 18, 17:16, 15, 14:12, 11:10, 9:8, 7:0 -/

theorem test_decode_nop : decode 0b00000000000000_00_0_000_00_00_00000000 = some .nop := by decide

theorem test_decode_mv : decode 0b00000000000000_00_0_000_01_10_00000001 = some (.mv 2 1) := by decide

theorem test_decode_vclr : decode 0b00000000000000_00_0_000_00_11_00000010 = some (.vclr 3) := by decide

theorem test_decode_shiftgenL : decode 0b00000000000000_00_0_000_00_00_00010000 = some .shiftgenL := by decide

theorem test_decode_shiftgenR : decode 0b00000000000000_00_0_001_00_00_00010000 = some .shiftgenR := by decide

theorem test_decode_matclr : decode 0b00000000000000_00_0_000_00_00_00100000 = some .matclr := by decide

theorem test_decode_opaccI : decode 0b00000000000000_10_0_000_00_00_00100001 = some (.opaccI 2) := by decide

theorem test_decode_opaccHl : decode 0b00000000000000_01_0_001_00_00_00100001 = some (.opaccHl 1) := by decide

theorem test_decode_opaccHr : decode 0b00000000000000_11_0_010_00_00_00100001 = some (.opaccHr 3) := by decide

theorem test_decode_opaccVu : decode 0b00000000000000_00_0_011_00_00_00100001 = some (.opaccVu 0) := by decide

theorem test_decode_opaccVd : decode 0b00000000000000_10_0_100_00_00_00100001 = some (.opaccVd 2) := by decide

theorem test_decode_build : decode 0b00000000000000_00_0_000_00_00_00100010 = some .build := by decide

theorem test_decode_encode : decode 0b00000000000000_00_0_000_01_00_00110000 = some (.encode 1) := by decide

theorem test_decode_step : decode 0b00000000000000_00_0_000_11_00_01000000 = some (.step 3) := by decide

theorem test_decode_run : decode 0b00000000000000_00_0_000_10_00_01000001 = some (.run 2) := by decide

/-- Rule R134, from the command to its word. -/
theorem test_encode_examples :
    encode (.mv 1 0) = 0x00000101 ∧ encode (.mv 2 1) = 0x00000601 ∧ encode (.vclr 3) = 0x00000302 ∧
      encode (.opaccI 1) = 0x00010021 ∧ encode (.opaccVd 0) = 0x00004021 ∧ encode (.encode 1) = 0x00000430 ∧
      encode (.run 2) = 0x00000841 := by decide

/-- A word one bit longer than a command gives none. -/
theorem test_decode_table_word :
    decodeTableWord 32 0x00004021 = some (.opaccVd 0) ∧ decodeTableWord 33 0x100000000 = none := by decide

/-- Rule R132's spelling. -/
theorem test_assembly : (Instr.mv 1 0).assembly = "mv v1, v0" ∧ (Instr.opaccVd 0).assembly = "opacc.vd q0" := by
  decide

/-! ## Ill-formed words, one for each check of WellFormed.lean (section 2.1 of the vectors) -/

theorem test_illformed_reserved_bit15 : reservedClear 0x00008041 = false ∧ decode 0x00008041 = none := by decide

theorem test_illformed_reserved_bit18 : reservedClear 0x00040000 = false ∧ decode 0x00040000 = none := by decide

theorem test_illformed_opcode : opcodeKnown 0x000000FF = false ∧ decode 0x000000FF = none := by decide

theorem test_illformed_dst : dstAllowed 0x00000141 = false ∧ decode 0x00000141 = none := by decide

theorem test_illformed_src : srcAllowed 0x00000402 = false ∧ decode 0x00000402 = none := by decide

theorem test_illformed_sel : selAllowed 0x00005021 = false ∧ selAllowed 0x00002010 = false ∧
    selAllowed 0x00001022 = false ∧ decode 0x00005021 = none ∧ decode 0x00002010 = none := by decide

theorem test_illformed_blk : blkAllowed 0x00020022 = false ∧ decode 0x00020022 = none := by decide

/-- An ill-formed word completes with STATUS 0x00000606 and stays in LASTCMD (section 2.1). -/
theorem test_illegal_status :
    (next ((blank 1 4).withFetchWord 32 0x00008041)).lastcmd = 0x00008041 ∧
      statusWord (next ((blank 1 4).withFetchWord 32 0x00008041)) = 0x00000606 := by decide

/-! ## NOP, MV, VCLR -/

/-- Section 2.1. -/
theorem test_nop : statusWord (after .nop (blank 1 4)) = 0x00000002 := by decide

/-- Section 2.3, step 1. -/
theorem test_mv_product : vectorWord 1 (after (.mv 1 0) product) = 0x6 ∧
    (after (.mv 1 0) product).vlen = { r0 := 4, r1 := 3, r2 := 0, r3 := 0 } := by decide +kernel

/-- Section 2.3, steps 2 and 3: the source is the destination, and then its length no longer fits. -/
theorem test_mv_same_register :
    vectorWord 0 (after (.mv 0 0) product) = 0x6 ∧
      statusWord (after (.mv 0 0) (after (.mv 0 0) product)) = 0x00000106 := by decide +kernel

/-- Section 2.3: VLEN is unchanged. -/
theorem test_vclr : vectorWord 0 (after (.vclr 0) product) = 0 ∧ vlenOf (after (.vclr 0) product) 0 = 4 := by
  decide +kernel

/-! ## SHIFTGEN -/

/-- Section 2.2, N = 3. -/
theorem test_shiftgenL : rows 4 (after .shiftgenL (grid 3)) = [0x4, 0x1, 0x2, 0x0] ∧
    (after .shiftgenL (grid 3)).mrows = 3 := by decide +kernel

/-- Section 2.2: N = −2³¹ and N = NMAX + 1. -/
theorem test_shiftgenL_errors :
    statusWord (after .shiftgenL { blank 3 4 with nreg := 0x80000000 }) = 0x00000206 ∧
      statusWord (after .shiftgenL { blank 3 4 with nreg := 4 }) = 0x00000506 := by decide

/-- Section 2.2, N = 3. -/
theorem test_shiftgenR : rows 4 (after .shiftgenR (grid 3)) = [0x2, 0x4, 0x1, 0x0] ∧
    (after .shiftgenR (grid 3)).mcols = 3 := by decide +kernel

/-! ## MATCLR, OPACC, BUILD -/

/-- Section 2.4: MAT is 0, MROWS and MCOLS stay. -/
theorem test_matclr : rows 3 (after .matclr product) = [0, 0, 0] ∧ (after .matclr product).mcols = 4 := by
  decide +kernel

/-- Section 2.4. -/
theorem test_opaccI : rows 9 (after (.opaccI 0) (grid 3)) =
    [0x001, 0x002, 0x004, 0x008, 0x010, 0x020, 0x040, 0x080, 0x100] := by decide +kernel

/-- Section 2.4, the quadrant case. -/
theorem test_opaccI_quadrant : rows 8 (after (.opaccI 3) (grid 2)) = [0, 0, 0, 0, 0x10, 0x20, 0x40, 0x80] := by
  decide +kernel

/-- Section 2.4. -/
theorem test_opaccHl : rows 9 (after (.opaccHl 0) (grid 3)) =
    [0x004, 0x001, 0x002, 0x020, 0x008, 0x010, 0x100, 0x040, 0x080] := by decide +kernel

/-- Section 2.4. -/
theorem test_opaccHr : rows 9 (after (.opaccHr 0) (grid 3)) =
    [0x002, 0x004, 0x001, 0x010, 0x020, 0x008, 0x080, 0x100, 0x040] := by decide +kernel

/-- Section 2.4, cancellation: H_left = H_right for N = 2. -/
theorem test_opaccHr_cancels : rows 4 (after (.opaccHr 0) (after (.opaccHl 0) (grid 2))) = [0, 0, 0, 0] := by
  decide +kernel

/-- Section 2.4. -/
theorem test_opaccVu : rows 9 (after (.opaccVu 0) (grid 3)) =
    [0x040, 0x080, 0x100, 0x001, 0x002, 0x004, 0x008, 0x010, 0x020] := by decide +kernel

/-- Section 2.4. -/
theorem test_opaccVd : rows 9 (after (.opaccVd 0) (grid 3)) =
    [0x008, 0x010, 0x020, 0x040, 0x080, 0x100, 0x001, 0x002, 0x004] := by decide +kernel

/-- Section 2.5, N = 2: MAT's old contents are gone. -/
theorem test_build2 :
    rows 8 (after .build { grid 2 with mat := product.mat }) = [0x11, 0x22, 0x44, 0x88, 0x01, 0x02, 0x04, 0x08] := by
  decide +kernel

/-- Section 2.5, N = 3. -/
theorem test_build3 : rows 10 (after .build (grid 3)) =
    [0x24F, 0x497, 0x927, 0x1079, 0x20BA, 0x413C, 0x81C9, 0x101D2, 0x201E4, 0x1] := by decide +kernel

/-! ## ENCODE, STEP, RUN -/

/-- Section 2.6: "XXZ". -/
theorem test_encode :
    historyWords 1 (after (.encode 0) { product with
      vreg := { product.vreg with r0 := bits 0x23 }, vlen := { product.vlen with r0 := 6 } }) = [0x25] ∧
    (after (.encode 0) { product with vlen := { product.vlen with r0 := 6 } }).hm = 3 := by decide +kernel

/-- Section 2.6: CAPACITY is checked before PARITY. -/
theorem test_encode_errors :
    statusWord (after (.encode 0) { product with vlen := { product.vlen with r0 := 5 } }) = 0x00000406 ∧
      statusWord (after (.encode 0) { product with vlen := { product.vlen with r0 := 9 } }) = 0x00000506 := by decide

/-- Section 2.7, N = 3: "IXIXYXIXI". -/
theorem test_step : vectorWord 0 (after (.step 0) grid3) = 0x000020BA ∧
    historyWords 1 (after (.step 0) grid3) = [0x00004744] := by decide +kernel

/-- Section 2.7, tail clearing. -/
theorem test_step_tail :
    vectorWord 0 (after (.step 0) { grid 1 with
      cfg := { nmax := 2, hdepth := 4 }, mrows := 2, mcols := 2
      mat := Memory.writeAll false [0, 1, 8] (fun _ => true) Memory.cleared
      vreg := { (grid 1).vreg with r0 := bits 0x21 }, vlen := { r0 := 2, r1 := 0, r2 := 0, r3 := 0 } }) = 0x3 := by
  decide +kernel

/-- Section 2.7, N = 1: X, Y, Z, X, and back to the start. -/
theorem test_run : historyWords 4 (after (.run 0) { grid1 with treg := 3 }) = [1, 3, 2, 1] ∧
    vectorWord 0 (after (.run 0) { grid1 with treg := 3 }) = 0x1 ∧
    (after (.run 0) { grid1 with treg := 3 }).hrows = 4 := by decide +kernel

/-- Section 2.7, the order of the errors: SIZE (T) before CAPACITY (N), CAPACITY before DIM. -/
theorem test_run_errors :
    statusWord (after (.run 0) { grid1 with nreg := 2, treg := 0xFFFFFFFF }) = 0x00000206 ∧
      statusWord (after (.run 0) { grid1 with treg := 4, mrows := 9 }) = 0x00000506 := by decide +kernel

/-! ## The host port (section 2.8) -/

theorem test_id_param :
    (hostRead 0x004 (hostRead 0x000 State.reset)).reads = [0x00100008, 0x47463201] := by decide +kernel

theorem test_vsel_drops_bits : (hostRead 0x040 (hostWrite 0x040 7 (blank 1 4))).reads = [3] := by decide

theorem test_velem_stores_bit0 :
    (hostRead 0x048 (hostWrite 0x048 6 { blank 2 4 with vsel := 2, vidx := 3 })).reads = [0] := by decide

/-- A write of MATELEM outside the matrix sets RANGE, and a write of 0x10 to STATUS clears it. -/
theorem test_range :
    statusWord (hostWrite 0x038 1 { blank 8 4 with matrow := 128 }) = 0x00000010 ∧
      statusWord (hostWrite 0x00C 0x10 (hostWrite 0x038 1 { blank 8 4 with matrow := 128 })) = 0 := by decide

/-- MATCOL[4:0] are ignored by MATWORD. -/
theorem test_matword :
    (hostRead 0x03C { hostWrite 0x03C 0xFFFFFFFF { blank 8 4 with matcol := 96 } with matcol := 127 }).reads =
      [0xFFFFFFFF] := by decide +kernel

/-- The busy rows of section 2.8: a write while a BUILD runs is ignored and sets OVR, and MROWS = 18 afterwards. -/
theorem test_busy_write :
    let s := hostWrite 0x014 5 (hostWrite 0x010 0x22 { grid 3 with ie := true })
    statusWord (hostWrite 0x010 0 s) = 0x00000009 ∧ (hostWrite 0x010 0 s).lastcmd = 0x22 ∧ irq s = false ∧
      statusWord (next s) = 0x0000000A ∧ irq (next s) = true ∧ (next s).mrows = 18 := by decide +kernel

/-- The other order of the same table: the engine's step falls before the write of NREG. -/
theorem test_busy_other_order :
    let s := next (hostWrite 0x010 0x22 { grid 3 with inputs := [.engine, .write 0x014 5] })
    (next s).nreg = 5 ∧ (next s).ovr = false := by decide +kernel

/-- `hcode 1, 0` (rule R133) reads the second row of test_run. -/
theorem test_notation : (next (next (next { after (.run 0) { grid1 with treg := 3 } with inputs := hcode 1 0 }))).reads =
    [3] := by decide +kernel

/-! ## Every command runs as the first one after reset -/

theorem test_first_command :
    [0x00000000, 0x00000E01, 0x00000302, 0x00000010, 0x00001010, 0x00000020, 0x00010021, 0x00001021, 0x00002021,
      0x00003021, 0x00004021, 0x00000022, 0x00000C30, 0x00000040, 0x00000041].map
        (fun w => statusWord (next (State.reset.withFetchWord 32 w))) =
    [0x00000002, 0x00000002, 0x00000002, 0x00000206, 0x00000206, 0x00000002, 0x00000206, 0x00000206, 0x00000206,
      0x00000206, 0x00000206, 0x00000206, 0x00000002, 0x00000206, 0x00000206] := by decide +kernel

/-! ## Witnesses: states and operands that meet the hypotheses of each statement, its clauses at their boundary values -/

/-- Idle, out of reset, NMAX = 2 (DMAX = 8, CMAX = 4), HDEPTH = 4. -/
def idle : State := blank 2 4

/-- A BUILD in flight. -/
def building : State := issueCommand 0x22 (grid 2)

/-- While reset is held. -/
def held : State := driveReset false building

theorem witness_DecodeOfEncode : (Instr.mv 3 3).wf = true ∧ (Instr.opaccVd 3).wf = true ∧ (Instr.run 0).wf = true := by
  decide

theorem witness_EncodeOfDecode : decode 0x00000F01 = some (.mv 3 3) ∧ decode 0x00034021 = some (.opaccVd 3) := by decide

theorem witness_StepRunsTheDecodedCommand :
    building.rstN = true ∧ building.busy = true ∧ decode building.pend = some .build := by decide

theorem witness_IllegalWordsComplete : wordWf (issueCommand 0xFFFFFFFF idle).pend = false := by decide

theorem witness_IssueCommandEffect : idle.rstN = true ∧ idle.busy = false := by decide

theorem witness_IssuedCommandIsPerformed :
    let s := { idle with inputs := [.write 0x010 (encode (.mv 3 3)), .engine] }
    s.rstN = true ∧ s.busy = false ∧ s.inputs = .write 0x010 (encode (.mv 3 3)) :: .engine :: [] := by decide

theorem witness_RaisedCommandsChangeNoData : ∃ t, exec .build idle = .next t ∧ t.errcode ≠ 0 :=
  ⟨_, rfl, by decide⟩

/-- Both sides of each check: N = 0, 1, NMAX, NMAX + 1, and T = −1, HDEPTH − 1, HDEPTH. -/
theorem witness_ErrorPriority :
    [0, 1, 2, 3].map (fun n => expectedCode .build { idle with nreg := n }) = [2, 0, 0, 5] ∧
      [0xFFFFFFFF, 3, 4].map (fun t => expectedCode (.run 0) { grid1 with treg := t }) = [2, 0, 5] := by decide +kernel

theorem witness_EveryIssuedCommandCompletes :
    let s := { building with inputs := [.read 0x00C, .write 0x014 5, .reset true, .engine] }
    s.rstN = true ∧ s.busy = true ∧ ∀ e ∈ s.inputs, e ≠ .reset false := by decide

theorem witness_OnlyACmdWriteStartsACommand :
    let s := { idle with inputs := [.write 0x013 7] }
    s.rstN = true ∧ ∃ t, step s = .next t ∧ s.busy = false ∧ t.busy = true := ⟨rfl, _, rfl, rfl, rfl⟩

theorem witness_BusyWritesOnlySetOvr :
    building.rstN = true ∧ building.busy = true ∧ ¬ ctrlOrStatus 0x007 ∧ ctrlOrStatus 0x008 ∧ ctrlOrStatus 0x00F ∧
      ¬ ctrlOrStatus 0x010 := by decide

/-- Lengths 0 and DMAX. -/
theorem witness_MvResult :
    let s := { idle with mrows := 8, mcols := 8, vlen := { r0 := 8, r1 := 0, r2 := 0, r3 := 0 } }
    (s.mrows.toNat ≤ s.cfg.dmax ∧ s.mcols.toNat ≤ s.cfg.dmax ∧ vlenOf s 0 = s.mcols) ∧
      (idle.mrows.toNat ≤ idle.cfg.dmax ∧ idle.mcols.toNat ≤ idle.cfg.dmax ∧ vlenOf idle 3 = idle.mcols) := by decide

theorem witness_VectorCommandsFrame :
    (∃ t, exec (.mv 1 0) product = .next t) ∧ (∃ t, exec (.mv 1 1) product = .next t) ∧
      ∃ t, exec (.vclr 3) product = .next t :=
  ⟨⟨_, rfl⟩, ⟨_, rfl⟩, ⟨_, rfl⟩⟩

/-- The smallest and the largest accepted N, for the statements that take `SizeIs`. -/
theorem witness_ShiftgenResults : SizeIs 1 { idle with nreg := 1 } ∧ SizeIs 2 { idle with nreg := 2 } := by decide

/-- N = 1, 2 and 3. -/
theorem witness_ShiftsAreInversePermutations :
    shiftLeft 1 0 0 = true ∧ shiftRight 1 0 0 = true ∧ shiftLeft 2 0 1 = shiftRight 2 0 1 ∧
      shiftLeft 3 0 1 ≠ shiftRight 3 0 1 ∧
      xorSum 2 (fun j => shiftLeft 2 0 j && shiftLeft 2 j 0) ≠ shiftLeft 2 0 0 := by decide

/-- An entry of the corner quadrant's last row and column, and one just outside it. -/
theorem witness_OpaccResult :
    SizeIs 2 (grid 2) ∧ (7 < (grid 2).cfg.dmax ∧ 3 < (grid 2).cfg.dmax ∧ ¬ (4 ≤ 7 ∧ 7 < 4 + 2 * 2 ∧ 4 ≤ 3 ∧ 3 < 4 + 2 * 2)) ∧
      gridEntry 2 .vDown 1 1 0 1 = true := by decide

theorem witness_BuildResult : SizeIs 1 (grid 1) ∧ SizeIs 2 (grid 2) ∧ 0 < 1 * 1 ∧ 1 < (grid 1).cfg.dmax := by decide

theorem witness_MatrixCommandsFrame :
    (∃ t, exec .shiftgenL (grid 2) = .next t) ∧ (∃ t, exec .build idle = .next t) ∧
      (∃ t, exec .matclr idle = .next t) ∧ (∃ t, exec (opacc .hLeft 3) (grid 2) = .next t) ∧
      ¬ (rowOffset 3 (cellCount (grid 2)) ≤ 3 ∧ 3 < rowOffset 3 (cellCount (grid 2)) + cellCount (grid 2)) :=
  ⟨⟨_, rfl⟩, ⟨_, rfl⟩, ⟨_, rfl⟩, ⟨_, rfl⟩, by decide⟩

theorem witness_OpaccIsItsOwnInverse : SizeIs 2 (grid 2) ∧ 7 < (grid 2).cfg.dmax := by decide

theorem witness_BuildEqualsAccumulation :
    SizeIs 2 (grid 2) ∧ (grid 2).rstN = true ∧
      List.Perm (α := Instr) [.opaccVd 0, .opaccI 2, .opaccHl 0, .opaccI 0, .opaccHr 0, .opaccVu 0, .opaccI 1]
        [.opaccI 0, .opaccHl 0, .opaccHr 0, .opaccVu 0, .opaccVd 0, .opaccI 1, .opaccI 2] := by decide

theorem witness_KroneckerEntries : 2 < 3 ∧ gridEntry 3 .hLeft 2 0 2 2 = true ∧ gridEntry 3 .vDown 2 1 0 1 = true := by
  decide

/-- The three cases of the statement, at N = 1, 2 and 3. -/
theorem witness_SmallGrids :
    plusMat 1 0 0 = true ∧ plusMat 2 3 3 = true ∧ evolutionMat 2 3 7 = true ∧ evolutionMat 2 7 7 = false ∧
      ((List.range 9).filter (plusMat 3 8)).length = 5 := by decide +kernel

theorem witness_EvolutionUpdateRule : 8 < 3 * 3 := by decide

theorem witness_EvolutionIsReversible : 1 ≤ 1 ∧ 1 < 2 * (1 * 1) := by decide

/-- A length of 0 and of DMAX. -/
theorem witness_EncodeResult :
    let s := { idle with vlen := { r0 := 0, r1 := 8, r2 := 0, r3 := 0 } }
    ((vlenOf s 0).toNat = 2 * 0 ∧ 2 * 0 ≤ s.cfg.dmax ∧ 1 ≤ s.hist.length) ∧
      ((vlenOf s 1).toNat = 2 * 4 ∧ 2 * 4 ≤ s.cfg.dmax) := by decide

theorem witness_EncodeRoundTrip :
    let s := { idle with vlen := { r0 := 0, r1 := 8, r2 := 0, r3 := 0 } }
    (vlenOf s 1).toNat = 2 * 4 ∧ 2 * 4 ≤ s.cfg.dmax ∧ 1 ≤ s.hist.length ∧ 3 < 4 := by decide

theorem witness_StepResult : SizeIs 1 grid1 ∧ DimsAre (2 * (1 * 1)) 0 grid1 ∧ 1 ≤ grid1.hist.length := by decide +kernel

/-- T = 0 and T = HDEPTH − 1. -/
theorem witness_RunResult :
    (SizeIs 1 grid1 ∧ StepsAre 0 grid1 ∧ DimsAre (2 * (1 * 1)) 0 grid1 ∧ grid1.hist.length = grid1.cfg.hdepth) ∧
      StepsAre 3 { grid1 with treg := 3 } := by decide +kernel

theorem witness_HistoryCommandsFrame :
    (∃ t, exec (.encode 0) idle = .next t) ∧ (∃ t, exec (.step 0) idle = .next t) ∧ ∃ t, exec (.run 0) idle = .next t :=
  ⟨⟨_, rfl⟩, ⟨_, rfl⟩, ⟨_, rfl⟩⟩

theorem witness_StepIsOneIterationOfRun :
    SizeIs 1 grid1 ∧ DimsAre (2 * (1 * 1)) 0 grid1 ∧ 2 ≤ grid1.cfg.hdepth ∧ grid1.hist.length = grid1.cfg.hdepth := by
  decide +kernel

theorem witness_RunContinues :
    SizeIs 1 grid1 ∧ DimsAre (2 * (1 * 1)) 0 grid1 ∧ grid1.cfg.ok ∧ 1 + 2 + 1 ≤ grid1.cfg.hdepth ∧
      grid1.hist.length = grid1.cfg.hdepth := by decide +kernel

theorem witness_StepOnTheBuiltOperator :
    SizeIs 1 grid1 ∧ DimsAre (2 * (1 * 1)) 0 grid1 ∧ 1 ≤ grid1.hist.length ∧
      ∀ i < 2 * (1 * 1), ∀ j < 2 * (1 * 1), matBit grid1 i j = evolutionMat 1 i j := by decide +kernel

theorem witness_ReadsChangeNoState :
    (building.rstN = true ∧ building.busy = true ∧ ¬ readableWhileBusy 0x010) ∧ readableWhileBusy 0x00F ∧
      idle.rstN = true ∧ idle.busy = false := by decide

/-- Idle, and with a command in flight. -/
theorem witness_IdleReadsReturnRegisters :
    (idle.cfg.ok ∧ idle.rstN = true ∧ idle.busy = false) ∧ building.cfg.ok ∧ building.rstN = true ∧
      building.busy = true ∧ (hostRead 0x004 (hostRead 0x000 building)).reads = [0x00040002, 0x47463201] := by
  decide +kernel

/-- Idle, and a poll of STATUS and a read of CTRL with a command in flight (section 2.8). -/
theorem witness_StatusCtrlVselReads :
    let s := { idle with errcode := 6, done := true, ovr := true, range := true, ie := true, vsel := 3 }
    s.rstN = true ∧ s.busy = false ∧
      (hostRead 0x040 (hostRead 0x008 (hostRead 0x00C s))).reads = [3, 1, 0x61E] ∧
      building.rstN = true ∧ building.busy = true ∧
      (hostRead 0x008 (hostRead 0x00C { building with ie := true })).reads = [1, 0x00000001] := by decide

theorem witness_StoredRegistersReadBack :
    idle.rstN = true ∧ idle.busy = false ∧ (0x050, vlenOf idle idle.vsel) ∈ storedRegisters idle := by decide

/-- The CTRL write with a command in flight, and both writes while idle. -/
theorem witness_CtrlAndVselWrites :
    building.rstN = true ∧ building.busy = true ∧ (hostWrite 0x008 0xFFFFFFFF building).ie = true ∧
      (hostWrite 0x008 0xFFFFFFFF building).ovr = false ∧ idle.rstN = true ∧ idle.busy = false ∧
      (hostRead 0x008 (hostWrite 0x008 0xFFFFFFFF idle)).reads = [1] ∧
      (hostRead 0x040 (hostWrite 0x040 0xFFFFFFFC idle)).reads = [0] := by decide

theorem witness_StatusWriteOneToClear :
    building.rstN = true ∧ building.busy = true ∧ idle.rstN = true ∧
      statusWord (hostWrite 0x00F 0xFFFFFFE5 { idle with done := true, ovr := true, range := true }) = 0x1A := by decide

/-- The first and the last offset of each range. -/
theorem witness_ReservedAndReadOnlyOffsets :
    [0x024, 0x02F, 0x054, 0x05F, 0x078, 0xFFF].map regAt = List.replicate 6 .reserved ∧
      [0x000, 0x007, 0x068, 0x077].map regAt = [.id, .param, .hcode, .hm] ∧
      [0x008, 0x023, 0x030, 0x053, 0x060, 0x067].map regAt = [.ctrl, .mcols, .matrow, .vlen, .hrow, .hidx] := by decide

theorem witness_HostWritesReachMemoriesOnlyThroughWindows :
    [0x037, 0x038, 0x03F, 0x040].map regAt = [.matcol, .matelem, .matword, .vsel] ∧
      [0x047, 0x048, 0x04F, 0x050].map regAt = [.vidx, .velem, .vword, .vlen] := by decide

/-- The last element of the matrix, and the first row and column outside it. -/
theorem witness_MatElemWindow :
    (let s := { idle with matrow := 7, matcol := 7 }
     s.matrow.toNat < s.cfg.dmax ∧ s.matcol.toNat < s.cfg.dmax ∧ matBit (hostWrite 0x038 3 s) 7 7 = true) ∧
    (hostWrite 0x038 3 { idle with matrow := 8 }).range = true ∧
      (hostWrite 0x038 3 { idle with matcol := 8 }).range = true := by decide

/-- A word partly outside the matrix, the first column outside it that is in the word, and the next word. -/
theorem witness_MatWordWindow :
    (let s := hostWrite 0x03C 0xFFFFFFFF { idle with matrow := 7, matcol := 8 }
     s.range = false ∧ matBit s 7 7 = true ∧ (hostRead 0x03C s).reads = [0xFF]) ∧
    (hostWrite 0x03C 1 { idle with matcol := 32 }).range = true ∧
      (hostWrite 0x03C 1 { idle with matrow := 8 }).range = true := by decide +kernel

theorem witness_VectorWindows :
    (hostWrite 0x048 1 { idle with vidx := 7 }).range = false ∧ (hostWrite 0x048 1 { idle with vidx := 8 }).range = true ∧
      (hostRead 0x04C (hostWrite 0x04C 0xFFFFFFFF { idle with vidx := 31 })).reads = [0xFF] ∧
      (hostWrite 0x04C 1 { idle with vidx := 32 }).range = true := by decide +kernel

/-- The last code of HIST, and the first row and cell outside it. -/
theorem witness_HistoryWindows :
    let s := { idle with hist := List.replicate 4 (Memory.ofList 0 [1, 2, 3, 2]), hrow := 3, hidx := 3 }
    (hostRead 0x06C (hostRead 0x068 s)).reads = [0xB9, 2] ∧
      (hostRead 0x06C (hostRead 0x068 { s with hrow := 4 })).reads = [0, 0] ∧
      (hostRead 0x068 { s with hidx := 4 }).reads = [0] := by decide +kernel

theorem witness_BusOffsets :
    8192 % 4096 = 0 ∧ busOffset 8192 8191 = none ∧ busOffset 8192 8192 = some 0x000 ∧
      busOffset 8192 12287 = some 0xFFF ∧ busOffset 8192 12288 = none := by decide

theorem witness_InterruptLevel :
    (∃ t, exec .nop idle = .next t) ∧ idle.rstN = true ∧ idle.busy = false ∧
      irq (hostWrite 0x008 1 { idle with done := true }) = true ∧ irq { idle with done := true } = false :=
  ⟨⟨_, rfl⟩, by decide, by decide, by decide, by decide⟩

/-- One step for each of the four clauses. -/
theorem witness_StickyFlags :
    (let s := { building with inputs := [.write 0x010 0] }
     ∃ t, step s = .next t ∧ s.ovr = false ∧ t.ovr = true) ∧
    (let s := { building with ovr := true, inputs := [.write 0x00F 8] }
     ∃ t, step s = .next t ∧ s.ovr = true ∧ t.ovr = false) ∧
    (let s := { idle with matrow := 8, inputs := [.write 0x038 0] }
     ∃ t, step s = .next t ∧ s.range = false ∧ t.range = true) ∧
    let s := { idle with range := true, inputs := [.reset false] }
      ∃ t, step s = .next t ∧ s.range = true ∧ t.range = false :=
  ⟨⟨_, rfl, rfl, rfl⟩, ⟨_, rfl, rfl, rfl⟩, ⟨_, rfl, rfl, rfl⟩, ⟨_, rfl, rfl, rfl⟩⟩

theorem witness_ResetValues : ∃ t, exec (opacc .ident 0) (State.resetOf Config.reference 0) = .next t := ⟨_, rfl⟩

theorem witness_ResetHeld : held.rstN = false ∧ held.busy = false := by decide

theorem witness_InvariantAtReset : Config.reference.ok := by decide

theorem witness_StepKeepsTheInvariant : building.Inv ∧ ∃ t, step building = .next t :=
  ⟨⟨⟨by decide, by decide, by decide, by decide, by decide⟩, ⟨by decide, by decide, by decide, by decide⟩⟩, ⟨_, rfl⟩⟩

end Sys2Proof.Tests
end

/-! Proofs of the statements of the family 00_scope: the entries of the grid operators, the results of MV and ENCODE,
the constant parameters, the bus window and the invariant at reset. -/

namespace Sys2Proof.Machine

open Sys2Proof

/-! ## Commands whose checks pass -/

/-- A command all of whose checks pass completes with its writes (rules R163, R164). -/
theorem exec_of_checks_pass {i : Instr} {s : State} (h : firstError (checksOf i s) = none) :
    exec i s = .next (complete .none (writtenBy i s)) := by
  rw [exec_eq_attempt, attempt_ok _ _ h]

/-- MV's checks pass exactly when its sizes fit DMAX and the vector is as long as MAT is wide (rule R181). -/
theorem firstError_mv {d k : VNum} {s : State} :
    firstError (checksOf (.mv d k) s) = none ↔
      s.mrows.toNat ≤ s.cfg.dmax ∧ s.mcols.toNat ≤ s.cfg.dmax ∧ (vlenOf s k).toNat ≤ s.cfg.dmax ∧
        (vlenOf s k).toNat = s.mcols.toNat := by
  simp [firstError_eq_none, checksOf, checkDmax_passes]

/-- ENCODE's checks pass exactly when the vector fits DMAX and its length is even (rule R251). -/
theorem firstError_encode {k : VNum} {s : State} :
    firstError (checksOf (.encode k) s) = none ↔ (vlenOf s k).toNat ≤ s.cfg.dmax ∧ (vlenOf s k).toNat % 2 = 0 := by
  simp [firstError_eq_none, checksOf, checkDmax_passes]

/-! ## The product of MV -/

@[simp] theorem productList_length (k : VNum) (s : State) : (productList k s).length = s.mrows.toNat := by
  simp [productList]

/-- The product's elements, 0 from MROWS on (rules R18, R180). -/
theorem listBit_productList (k : VNum) (s : State) (i : Nat) :
    listBit (productList k s) i =
      (decide (i < s.mrows.toNat) && mulVec s.mcols.toNat (matBit s) (vregBit s k) i) :=
  listBit_map_range _ i _

/-! ## The codes of ENCODE -/

/-- The first n elements of a vector register, as a list. -/
theorem listBit_vectorList (s : State) (k : VNum) (n i : Nat) :
    listBit (vectorList s k n) i = (decide (i < n) && vregBit s k i) :=
  listBit_map_range n i _

/-- `code(x, z) = x + 2·z` as a number (rule R21). -/
theorem pauliCode_toNat (x z : Bool) : (pauliCode x z).toNat = x.toNat + 2 * z.toNat := by
  cases x <;> cases z <;> rfl

/-- The codes of the first 2M elements of a vector register, 0 from cell M on (rules R21, R250). -/
theorem codesRow_vectorList_toNat (s : State) (k : VNum) (M p : Nat) :
    ((codesRow M (vectorList s k (2 * M))).code p).toNat =
      if p < M then (vregBit s k p).toNat + 2 * (vregBit s k (M + p)).toNat else 0 := by
  rw [codesRow_code]
  split
  · next hp =>
    have hx : listBit (vectorList s k (2 * M)) p = vregBit s k p := by
      simp [listBit_vectorList, show p < 2 * M by omega]
    have hz : listBit (vectorList s k (2 * M)) (M + p) = vregBit s k (M + p) := by
      simp [listBit_vectorList, show M + p < 2 * M by omega]
    rw [hx, hz, pauliCode_toNat]
  · rfl

/-- A code of a history row that exists. -/
theorem histCode_of_getElem? {s : State} {r : Nat} {row : Memory Code} (h : s.hist[r]? = some row) (p : Nat) :
    histCode s r p = row.code p := by
  simp only [histCode, h]

/-- What ENCODE writes for a vector of even length 2M (rule R251). -/
theorem writtenBy_encode_even {s : State} {k : VNum} {M : Nat} (h : (vlenOf s k).toNat = 2 * M) :
    writtenBy (.encode k) s = setExtent 1 M { s with hist := writeCodes 0 M (vectorList s k (2 * M)) s.hist } := by
  simp only [writtenBy, h, Nat.mul_div_cancel_left M Nat.two_pos]

/-! ## Entries of the grid operators -/

/-- The entry of a Kronecker product at two cells of the grid (rule R19). -/
theorem kron_cell {N c c' : Nat} (P Q : GfMat) (r r' : Nat) (hc : c < N) (hc' : c' < N) :
    kron N N P Q (r * N + c) (r' * N + c') = (P r r' && Q c c') := by
  have row {r c : Nat} (h : c < N) : (r * N + c) / N = r := by
    rw [Nat.mul_comm, Nat.mul_add_div (by omega), Nat.div_eq_of_lt h, Nat.add_zero]
  have column {r c : Nat} (h : c < N) : (r * N + c) % N = c := by
    rw [Nat.mul_comm, Nat.mul_add_mod, Nat.mod_eq_of_lt h]
  rw [kron, row hc, row hc', column hc, column hc']

/-- The identity's entry at two cells is 1 exactly where both coordinates agree. -/
theorem identityMat_cell {N c c' : Nat} (r r' : Nat) (hc : c < N) (hc' : c' < N) :
    identityMat (r * N + c) (r' * N + c') = (r' == r && c' == c) := by
  rw [identityMat, Bool.eq_iff_iff, beq_iff_eq, address_inj hc hc', Bool.and_eq_true, beq_iff_eq, beq_iff_eq,
    eq_comm (a := r), eq_comm (a := c)]

/-- L's entries, with the index before `i` written without a negative number (rules R15, R200). -/
theorem shiftLeft_entry {N i : Nat} (j : Nat) (hi : i < N) : shiftLeft N i j = (j == (i + N - 1) % N) := by
  have h : (i + N - 1) % N = cyclic ((i : Int) - 1) N := by
    rw [cyclic_pred hi]
    split
    · next h0 => rw [h0, Nat.zero_add, Nat.mod_eq_of_lt (by omega)]
    · rw [show i + N - 1 = i - 1 + N by omega, Nat.add_mod_right, Nat.mod_eq_of_lt (by omega)]
  rw [shiftLeft, h]

/-- R's entries (rules R15, R200). -/
theorem shiftRight_entry {N i : Nat} (j : Nat) (hi : i < N) : shiftRight N i j = (j == (i + 1) % N) := by
  have h : (i + 1) % N = cyclic ((i : Int) + 1) N := by
    rw [cyclic_succ hi]
    split
    · next hN => rw [hN, Nat.mod_self]
    · exact Nat.mod_eq_of_lt (by omega)
  rw [shiftRight, h]

/-- The entries of the five operators at two cells of the grid (rule R221). -/
theorem gridMat_cell {N r c r' c' : Nat} (op : GridOp) (hr : r < N) (hc : c < N) (hc' : c' < N) :
    gridMat N op (r * N + c) (r' * N + c') = gridEntry N op r c r' c' := by
  have identity (i j : Nat) : identityMat i j = (j == i) := BEq.comm
  cases op with
  | ident => exact identityMat_cell r r' hc hc'
  | hLeft => rw [gridMat, kron_cell _ _ r r' hc hc', identity, shiftLeft_entry c' hc, gridEntry]
  | hRight => rw [gridMat, kron_cell _ _ r r' hc hc', identity, shiftRight_entry c' hc, gridEntry]
  | vUp => rw [gridMat, kron_cell _ _ r r' hc hc', identity, shiftLeft_entry r' hr, gridEntry]
  | vDown => rw [gridMat, kron_cell _ _ r r' hc hc', identity, shiftRight_entry r' hr, gridEntry]

/-! ## The parameters stay (rules R7, R10) -/

@[simp] theorem matElemWrite_cfg (v : Word) (s : State) : (matElemWrite v s).cfg = s.cfg := by
  unfold matElemWrite; split <;> rfl

@[simp] theorem matWordWrite_cfg (v : Word) (s : State) : (matWordWrite v s).cfg = s.cfg := by
  unfold matWordWrite; split <;> rfl

@[simp] theorem vElemWrite_cfg (v : Word) (s : State) : (vElemWrite v s).cfg = s.cfg := by
  unfold vElemWrite; split <;> rfl

@[simp] theorem vWordWrite_cfg (v : Word) (s : State) : (vWordWrite v s).cfg = s.cfg := by
  unfold vWordWrite; split <;> rfl

@[simp] theorem writeReg_cfg (v : Word) (s : State) (r : Reg) : (writeReg v s r).cfg = s.cfg := by
  cases r with
  | matelem => exact matElemWrite_cfg v s
  | matword => exact matWordWrite_cfg v s
  | velem => exact vElemWrite_cfg v s
  | vword => exact vWordWrite_cfg v s
  | _ => rfl

@[simp] theorem hostRead_cfg (a : Offset) (s : State) : (hostRead a s).cfg = s.cfg := by
  obtain ⟨-, h⟩ | ⟨-, -, -, h⟩ | ⟨-, -, h⟩ := hostRead_cases a s <;> rw [h] <;> rfl

@[simp] theorem hostWrite_cfg (a : Offset) (v : Word) (s : State) : (hostWrite a v s).cfg = s.cfg := by
  obtain ⟨-, h⟩ | ⟨-, -, -, h⟩ | ⟨-, -, h⟩ := hostWrite_cases a v s
  · rw [h]
  · rw [h]
  · rw [h, writeReg_cfg]

@[simp] theorem driveReset_cfg (level : Bool) (s : State) : (driveReset level s).cfg = s.cfg := by
  cases level <;> rfl

@[simp] theorem writtenBy_cfg (i : Instr) (s : State) : (writtenBy i s).cfg = s.cfg := by
  rw [writtenBy_untouched]

/-- Every command answers a next state with the same parameters (rule R300). -/
theorem exec_next_cfg (i : Instr) (s : State) : ∃ t, exec i s = .next t ∧ t.cfg = s.cfg := by
  obtain ⟨-, h⟩ | ⟨code, -, -, h⟩ := exec_cases i s
  · exact ⟨_, h, by simp⟩
  · exact ⟨_, h, rfl⟩

/-- The engine's turn answers a next state with the same parameters, whatever word is in flight. -/
theorem engineTurn_next_cfg (s : State) : ∃ t, engineTurn s = .next t ∧ t.cfg = s.cfg := by
  obtain ⟨-, h⟩ | ⟨-, -, h⟩ | ⟨-, i, -, h⟩ := engineTurn_cases s
  · exact ⟨s, h, rfl⟩
  · exact ⟨_, h, rfl⟩
  · rw [h]
    exact exec_next_cfg i s

/-! ## Reset -/

/-- The control rules hold right after reset: no command in flight, code 0 and an empty history extent (rule R57). -/
theorem resetOf_control (c : Config) (n : Nat) : (State.resetOf c n).Control where
  inFlight h := nomatch h
  held _ := ⟨rfl, rfl⟩
  code := .inl rfl
  extent := ⟨Nat.zero_le _, Nat.zero_le _⟩

/-- With parameters in range the data has its shape right after reset (rules R57, R342). -/
theorem resetOf_shape {c : Config} (n : Nat) (h : c.ok) : (State.resetOf c n).Shape := by
  obtain ⟨hmat, hvreg, hhist⟩ := resetOf_wf c n
  exact ⟨h, hmat, hvreg, by simp [State.resetOf], hhist⟩

theorem resetOf_inv {c : Config} (n : Nat) (h : c.ok) : (State.resetOf c n).Inv :=
  ⟨resetOf_shape n h, resetOf_control c n⟩

/-! ## The statements -/

/-- Settles O17: MV's checks pass, and what it writes is the product of rule R181 and the row count. The product is
taken of the state before the write, so d = k needs no case of its own. -/
theorem mvResult : Obligations.MvResult := by
  unfold Obligations.MvResult
  intro s d k hrows hcols hlen
  have hpass : firstError (checksOf (.mv d k) s) = none :=
    firstError_mv.2 ⟨hrows, hcols, hlen ▸ hcols, congrArg BitVec.toNat hlen⟩
  refine ⟨_, exec_of_checks_pass hpass, ?_, fun i => ?_, fun k' hk' => ?_⟩
  · have hvlen : (writeVec d (productList k s) s).vlen = s.vlen.set d s.mrows := by simp
    rw [← hvlen]
    rfl
  · calc vregBit (writeVec d (productList k s) s) d i
        = listBit (productList k s) i := by rw [vregBit_writeVec, if_pos rfl]
      _ = _ := listBit_productList k s i
  · show ((writeVec d (productList k s) s).vreg).get k' = _
    rw [writeVec_vreg, Quad.get_set, if_neg hk']

/-- Settles O28, operator by operator, from the entries of a Kronecker product at two cells. -/
theorem kroneckerEntries : Obligations.KroneckerEntries := by
  unfold Obligations.KroneckerEntries
  intro N op r c r' c' hr hc _ hc'
  exact gridMat_cell op hr hc hc'

/-- Settles O32: ENCODE's checks pass, and row 0 is the only row it writes. -/
theorem encodeResult : Obligations.EncodeResult := by
  unfold Obligations.EncodeResult
  intro s k M hlen hfit hrow
  have hpass : firstError (checksOf (.encode k) s) = none := firstError_encode.2 ⟨by omega, by omega⟩
  have hrow0 : (writeCodes 0 M (vectorList s k (2 * M)) s.hist)[0]? = some (codesRow M (vectorList s k (2 * M))) := by
    rw [writeCodes_getElem?, if_pos ⟨rfl, hrow⟩]
  have hexec := exec_of_checks_pass hpass
  rw [writtenBy_encode_even hlen] at hexec
  refine ⟨_, hexec, rfl, writeCodes_length .., fun p => ?_, fun r hr => ?_⟩
  · rw [histCode_of_getElem? hrow0, codesRow_vectorList_toNat]
  · exact (writeCodes_getElem? ..).trans (if_neg fun h => hr h.1)

/-- Settles O60, by the cases of a step: a host access, a level of rst_n, or the engine's turn. -/
theorem parametersAreConstant : Obligations.ParametersAreConstant := by
  unfold Obligations.ParametersAreConstant
  intro s
  obtain ⟨-, h⟩ | ⟨rest, ⟨a, -, h⟩ | ⟨a, v, -, h⟩ | ⟨-, h⟩ | ⟨l, -, h⟩⟩ := step_cases s
  · rw [h]
    exact engineTurn_next_cfg s
  · exact ⟨_, h, hostRead_cfg a _⟩
  · exact ⟨_, h, hostWrite_cfg a v _⟩
  · rw [h]
    exact engineTurn_next_cfg { s with inputs := rest }
  · exact ⟨_, h, driveReset_cfg l _⟩

/-- Settles O53: inside the window the offset is below 4096, so it is the address modulo the alignment. -/
theorem busOffsets : Obligations.BusOffsets := by
  unfold Obligations.BusOffsets
  intro base addr hbase
  constructor
  · intro hin
    exact ⟨_, if_pos hin, by rw [BitVec.toNat_ofNat]; omega⟩
  · intro hout
    exact if_neg (by omega)

/-- Settles O58: the shape and the control rules at reset; the reference configuration is in range. -/
theorem invariantAtReset : Obligations.InvariantAtReset := by
  unfold Obligations.InvariantAtReset
  exact ⟨fun _ n hc => resetOf_inv n hc, resetOf_inv 0 (by decide)⟩

end Sys2Proof.Machine

/-! Proofs of the statements of the family 10_state: every step keeps the invariant, the flags no command reads, what
the plain registers return and store, which writes reach the memories, the sticky flags and a held reset. -/

namespace Sys2Proof.Machine

open Sys2Proof

/-! ## What a window write leaves -/

/-- A write of MATELEM changes MAT and RANGE alone (rule R92). -/
theorem matElemWrite_untouched (v : Word) (s : State) :
    matElemWrite v s = { s with mat := (matElemWrite v s).mat, range := (matElemWrite v s).range } := by
  unfold matElemWrite; split <;> rfl

/-- A write of MATWORD changes MAT and RANGE alone (rule R93). -/
theorem matWordWrite_untouched (v : Word) (s : State) :
    matWordWrite v s = { s with mat := (matWordWrite v s).mat, range := (matWordWrite v s).range } := by
  unfold matWordWrite; split <;> rfl

/-- A write of VELEM changes VREG and RANGE alone (rule R94). -/
theorem vElemWrite_untouched (v : Word) (s : State) :
    vElemWrite v s = { s with vreg := (vElemWrite v s).vreg, range := (vElemWrite v s).range } := by
  unfold vElemWrite; split <;> rfl

/-- A write of VWORD changes VREG and RANGE alone (rule R95). -/
theorem vWordWrite_untouched (v : Word) (s : State) :
    vWordWrite v s = { s with vreg := (vWordWrite v s).vreg, range := (vWordWrite v s).range } := by
  unfold vWordWrite; split <;> rfl

/-! ## The sizes of a command whose checks pass -/

/-- Where both checks on N are among those that passed, the cells and the state vector fit their memories (rule
R167). -/
theorem sizes_of_checks_pass {checks : List (Bool × ErrCode)} {s : State} (hpass : firstError checks = none)
    (hsize : checkSizeN s ∈ checks) (hcap : checkCapN s ∈ checks) :
    cellCount s ≤ s.cfg.cmax ∧ stateLen s ≤ s.cfg.dmax := by
  have hall := firstError_eq_none.1 hpass
  obtain ⟨-, -, -, hcells, hlen⟩ :=
    sizes_of_checks (checkSizeN_passes.1 (hall _ hsize)) (checkCapN_passes.1 (hall _ hcap))
  exact ⟨hcells, hlen⟩

theorem stateLen_le_of_gridChecks {s : State} (hpass : firstError (gridChecks s) = none) : stateLen s ≤ s.cfg.dmax :=
  (sizes_of_checks_pass hpass (by simp [gridChecks]) (by simp [gridChecks])).2

/-- The sizes STEP works with, its checks having passed (rule R273). -/
theorem sizes_of_step_checks {k : VNum} {s : State} (hpass : firstError (checksOf (.step k) s) = none) :
    cellCount s ≤ s.cfg.cmax ∧ stateLen s ≤ s.cfg.dmax :=
  sizes_of_checks_pass hpass (by simp [checksOf]) (by simp [checksOf])

/-- The sizes RUN works with, its checks having passed (rule R274). -/
theorem sizes_of_run_checks {k : VNum} {s : State} (hpass : firstError (checksOf (.run k) s) = none) :
    cellCount s ≤ s.cfg.cmax ∧ stateLen s ≤ s.cfg.dmax :=
  sizes_of_checks_pass hpass (by simp [checksOf]) (by simp [checksOf])

/-- The grid size is no more than the length of a state vector, 2·N² (rule R167). -/
theorem gridSize_le_stateLen (s : State) : gridSize s ≤ stateLen s := by
  have : gridSize s ≤ gridSize s * gridSize s := Nat.le_mul_self _
  unfold stateLen cellCount
  omega

/-- A quadrant lies within the state vector's rows and columns (rule R127). -/
theorem rowOffset_add_le (b : Quadrant) (s : State) : rowOffset b (cellCount s) + cellCount s ≤ stateLen s := by
  unfold rowOffset stateLen
  split <;> omega

theorem colOffset_add_le (b : Quadrant) (s : State) : colOffset b (cellCount s) + cellCount s ≤ stateLen s := by
  unfold colOffset stateLen
  split <;> omega

/-- Half of DMAX is CMAX (rules R8, R9). -/
theorem half_le_cmax {c : Config} {n : Nat} (h : n ≤ c.dmax) : n / 2 ≤ c.cmax := by
  unfold Config.dmax at h
  unfold Config.cmax
  omega

/-- The checks of RUN that pass leave T + 1 rows within HIST (rule R270). -/
theorem stepCount_lt_of_run_checks {k : VNum} {s : State} (hpass : firstError (checksOf (.run k) s) = none) :
    stepCount s + 1 ≤ s.cfg.hdepth := by
  have hall := firstError_eq_none.1 hpass
  have hsize := checkSizeT_passes.1 (hall (checkSizeT s) (by simp [checksOf]))
  have hcap := checkCapT_passes.1 (hall (checkCapT s) (by simp [checksOf]))
  unfold stepCount
  omega

@[simp] theorem vectorList_length (s : State) (k : VNum) (n : Nat) : (vectorList s k n).length = n := by
  simp [vectorList]

/-! ## The shape is kept -/

section Shape

variable {s : State}

theorem setVreg_shape (h : s.Shape) (d : VNum) {y : List Bool} (hy : y.length ≤ s.cfg.dmax) : (setVreg d y s).Shape :=
  ⟨h.params, h.mat, setVreg_wf hy h.vreg, h.rows, h.hist⟩

/-- A square matrix that fits is loaded, with its dimensions (rules R202, R203, R232). -/
theorem loadSquare_shape (h : s.Shape) {n : Nat} (M : GfMat) (hn : n ≤ s.cfg.dmax) :
    (setDims n n (loadMat n M s)).Shape :=
  ⟨h.params, loadMat_wf M hn, h.vreg, h.rows, h.hist⟩

/-- History rows that are as many as before and in canonical form, with whatever extent. -/
theorem setExtent_shape (h : s.Shape) (rows m : Nat) {hist : List (Memory Code)} (hlen : hist.length = s.hist.length)
    (hwf : ∀ m ∈ hist, m.wf 0 s.cfg.cmax) : (setExtent rows m { s with hist := hist }).Shape :=
  ⟨h.params, h.mat, h.vreg, hlen.trans h.rows, hwf⟩

theorem accumulateGrid_shape (h : s.Shape) (op : GridOp) (b : Quadrant) (hD : stateLen s ≤ s.cfg.dmax) :
    (accumulateGrid op b s).Shape :=
  ⟨h.params, accumulate_wf _ h.mat ((rowOffset_add_le b s).trans hD) ((colOffset_add_le b s).trans hD), h.vreg,
    h.rows, h.hist⟩

/-- What a command writes keeps the shape, its sizes having been checked (rules R165, R167, R181, R251, R271). -/
theorem writtenBy_shape (h : s.Shape) {i : Instr} (hpass : firstError (checksOf i s) = none) :
    (writtenBy i s).Shape := by
  cases i with
  | nop => exact h
  | mv d k =>
    obtain ⟨hrows, -, -, -⟩ := firstError_mv.1 hpass
    have hy : (productList k s).length ≤ s.cfg.dmax := by rwa [productList_length]
    exact ⟨h.params, h.mat, setVreg_wf hy h.vreg, h.rows, h.hist⟩
  | vclr d => exact setVreg_shape h d (Nat.zero_le _)
  | shiftgenL => exact loadSquare_shape h _ ((gridSize_le_stateLen s).trans (stateLen_le_of_gridChecks hpass))
  | shiftgenR => exact loadSquare_shape h _ ((gridSize_le_stateLen s).trans (stateLen_le_of_gridChecks hpass))
  | matclr => exact ⟨h.params, Memory.wf_cleared _ _, h.vreg, h.rows, h.hist⟩
  | opaccI b => exact accumulateGrid_shape h .ident b (stateLen_le_of_gridChecks hpass)
  | opaccHl b => exact accumulateGrid_shape h .hLeft b (stateLen_le_of_gridChecks hpass)
  | opaccHr b => exact accumulateGrid_shape h .hRight b (stateLen_le_of_gridChecks hpass)
  | opaccVu b => exact accumulateGrid_shape h .vUp b (stateLen_le_of_gridChecks hpass)
  | opaccVd b => exact accumulateGrid_shape h .vDown b (stateLen_le_of_gridChecks hpass)
  | build => exact loadSquare_shape h _ (stateLen_le_of_gridChecks hpass)
  | encode k =>
    obtain ⟨hlen, -⟩ := firstError_encode.1 hpass
    exact setExtent_shape h _ _ (writeCodes_length ..) (writeCodes_wf _ (half_le_cmax hlen) h.hist)
  | step k =>
    obtain ⟨hK, hD⟩ := sizes_of_step_checks hpass
    exact setExtent_shape (setVreg_shape h k ((applyMat_length ..).trans_le hD)) _ _ (writeCodes_length ..)
      (writeCodes_wf _ hK h.hist)
  | run k =>
    obtain ⟨hK, hD⟩ := sizes_of_run_checks hpass
    have hS : (stateVector k s).length = stateLen s := vectorList_length ..
    refine setExtent_shape (setVreg_shape h k ?_) _ _ ?_ (runLoop_wf _ _ _ _ hK (writeCodes_wf _ hK h.hist))
    · rwa [runLoop_state, applyTimes_length _ _ hS]
    · exact (runLoop_length ..).trans (writeCodes_length ..)

/-- A host write of a register keeps the shape: the windows write elements inside their memories alone (rules R92 to
R95). -/
theorem writeReg_shape (h : s.Shape) (v : Word) (r : Reg) : (writeReg v s r).Shape := by
  cases r with
  | matelem =>
    rw [writeReg, matElemWrite_untouched]
    exact ⟨h.params, matElemWrite_wf v h.mat, h.vreg, h.rows, h.hist⟩
  | matword =>
    rw [writeReg, matWordWrite_untouched]
    exact ⟨h.params, matWordWrite_wf v h.mat, h.vreg, h.rows, h.hist⟩
  | velem =>
    rw [writeReg, vElemWrite_untouched]
    exact ⟨h.params, h.mat, vElemWrite_wf v h.vreg, h.rows, h.hist⟩
  | vword =>
    rw [writeReg, vWordWrite_untouched]
    exact ⟨h.params, h.mat, vWordWrite_wf v h.vreg, h.rows, h.hist⟩
  | _ => exact ⟨h.params, h.mat, h.vreg, h.rows, h.hist⟩

end Shape

/-! ## The control rules are kept -/

section Control

variable {s : State}

/-- A host write of a register keeps the control rules: only CMD and STATUS write what they speak of (rules R91,
R161). -/
theorem writeReg_control (h : s.Control) (hrst : s.rstN = true) (v : Word) (r : Reg) : (writeReg v s r).Control := by
  have hup : s.rstN ≠ false := by simp [hrst]
  cases r with
  | status =>
    exact ⟨fun hb => by simp [writeReg, h.inFlight hb], fun hlow => absurd hlow hup, h.code, h.extent⟩
  | cmd => exact ⟨fun _ => ⟨rfl, rfl, rfl⟩, fun hlow => absurd hlow hup, .inl rfl, h.extent⟩
  | matelem => rw [writeReg, matElemWrite_untouched]; exact ⟨h.inFlight, h.held, h.code, h.extent⟩
  | matword => rw [writeReg, matWordWrite_untouched]; exact ⟨h.inFlight, h.held, h.code, h.extent⟩
  | velem => rw [writeReg, vElemWrite_untouched]; exact ⟨h.inFlight, h.held, h.code, h.extent⟩
  | vword => rw [writeReg, vWordWrite_untouched]; exact ⟨h.inFlight, h.held, h.code, h.extent⟩
  | _ => exact ⟨h.inFlight, h.held, h.code, h.extent⟩

/-- HROWS and HM after a command's writes lie within HIST (rules R54, R251, R273, R274). -/
theorem writtenBy_extent (hdepth : 1 ≤ s.cfg.hdepth)
    (h : s.hrows.toNat ≤ s.cfg.hdepth ∧ s.hm.toNat ≤ s.cfg.cmax) {i : Instr}
    (hpass : firstError (checksOf i s) = none) :
    (writtenBy i s).hrows.toNat ≤ s.cfg.hdepth ∧ (writtenBy i s).hm.toNat ≤ s.cfg.cmax := by
  have word {n b : Nat} (hn : n ≤ b) : (BitVec.ofNat 32 n).toNat ≤ b :=
    (BitVec.toNat_ofNat n 32).trans_le ((Nat.mod_le _ _).trans hn)
  cases i with
  | encode k => exact ⟨word hdepth, word (half_le_cmax (firstError_encode.1 hpass).1)⟩
  | step k => exact ⟨word hdepth, word (sizes_of_step_checks hpass).1⟩
  | run k =>
    exact ⟨word (stepCount_lt_of_run_checks hpass), word (sizes_of_run_checks hpass).1⟩
  | _ => exact h

/-- After a completion no command is in flight, so the code and the extent are all there is to keep (rule R164). -/
theorem complete_control {code : ErrCode} (hrst : s.rstN = true) (hcode : legalCode code.bits)
    (hext : s.hrows.toNat ≤ s.cfg.hdepth ∧ s.hm.toNat ≤ s.cfg.cmax) : (complete code s).Control :=
  ⟨fun hb => (nomatch hb), fun hlow => by simp [hrst] at hlow, hcode, hext⟩

/-- The code of a failed check is one of those of rule R301. -/
theorem legalCode_of_check {i : Instr} {code : ErrCode} (h : (true, code) ∈ checksOf i s) : legalCode code.bits := by
  obtain rfl | rfl | rfl | rfl : code = .dim ∨ code = .size ∨ code = .parity ∨ code = .capacity := checksOf_code h <;>
    decide

end Control

/-! ## The invariant is kept -/

section Invariant

variable {s t : State}

/-- A completion keeps the shape (rule R164). -/
theorem complete_shape (h : s.Shape) (code : ErrCode) : (complete code s).Shape :=
  ⟨h.params, h.mat, h.vreg, h.rows, h.hist⟩

/-- The invariant does not speak of OVR, of what is still to come from outside, or of what reads have returned. -/
theorem inv_of_unconstrained (h : s.Inv) (ovr : Bool) (inputs : List Event) (reads : List Word) (draws : Nat) :
    { s with ovr := ovr, inputs := inputs, reads := reads, draws := draws }.Inv :=
  ⟨⟨h.shape.params, h.shape.mat, h.shape.vreg, h.shape.rows, h.shape.hist⟩,
    ⟨h.control.inFlight, h.control.held, h.control.code, h.control.extent⟩⟩

/-- Every command keeps the invariant, whether it completes with its writes or with an error. -/
theorem exec_inv (h : s.Inv) (hrst : s.rstN = true) {i : Instr} (hexec : exec i s = .next t) : t.Inv := by
  obtain ⟨hpass, hnext⟩ | ⟨code, hcode, -, hnext⟩ := exec_cases i s <;> obtain rfl : _ = t := by
    simpa [hnext] using hexec
  · have hshape := writtenBy_shape h.shape hpass
    refine ⟨complete_shape hshape _, complete_control ?_ (.inl rfl) ?_⟩
    · rw [writtenBy_untouched]
      exact hrst
    · rw [writtenBy_cfg]
      exact writtenBy_extent h.shape.params.2.2.1 h.control.extent hpass
  · exact ⟨complete_shape h.shape _, complete_control hrst (legalCode_of_check hcode) h.control.extent⟩

/-- The engine's turn keeps the invariant, whatever word is in flight. -/
theorem engineTurn_inv (h : s.Inv) (hturn : engineTurn s = .next t) : t.Inv := by
  obtain ⟨-, hnext⟩ | ⟨hrun, -, hnext⟩ | ⟨hrun, i, -, hnext⟩ := engineTurn_cases s
  · obtain rfl : s = t := by simpa [hnext] using hturn
    exact h
  · obtain rfl : complete .illegal s = t := by simpa [hnext] using hturn
    obtain ⟨hrst, -⟩ := Bool.and_eq_true_iff.1 hrun
    exact ⟨complete_shape h.shape _, complete_control hrst (by decide) h.control.extent⟩
  · obtain ⟨hrst, -⟩ := Bool.and_eq_true_iff.1 hrun
    exact exec_inv h hrst (hnext ▸ hturn)

/-- A host read changes nothing that the invariant speaks of (rules R90, R101). -/
theorem hostRead_inv (h : s.Inv) (a : Offset) : (hostRead a s).Inv := by
  obtain ⟨-, hnext⟩ | ⟨-, -, -, hnext⟩ | ⟨-, -, hnext⟩ := hostRead_cases a s <;> rw [hnext]
  · exact h
  · exact inv_of_unconstrained h s.ovr s.inputs (_ :: s.reads) (s.draws + 1)
  · exact inv_of_unconstrained h s.ovr s.inputs (_ :: s.reads) s.draws

/-- A host write keeps the invariant: ignored, it sets OVR at most; otherwise it is a write of the register. -/
theorem hostWrite_inv (h : s.Inv) (a : Offset) (v : Word) : (hostWrite a v s).Inv := by
  obtain ⟨-, hnext⟩ | ⟨-, -, -, hnext⟩ | ⟨hrst, -, hnext⟩ := hostWrite_cases a v s <;> rw [hnext]
  · exact h
  · exact inv_of_unconstrained h true s.inputs s.reads s.draws
  · exact ⟨writeReg_shape h.shape v _, writeReg_control h.control hrst v _⟩

/-- Driving rst_n keeps the invariant: low gives the values of a reset, high changes no register (rules R340, R343). -/
theorem driveReset_inv (h : s.Inv) (level : Bool) : (driveReset level s).Inv := by
  cases level with
  | true =>
    exact ⟨⟨h.shape.params, h.shape.mat, h.shape.vreg, h.shape.rows, h.shape.hist⟩,
      ⟨h.control.inFlight, fun hlow => (nomatch hlow), h.control.code, h.control.extent⟩⟩
  | false =>
    obtain ⟨hshape, hcontrol⟩ := resetOf_inv (s.resets + 1) h.shape.params
    exact ⟨⟨hshape.params, hshape.mat, hshape.vreg, hshape.rows, hshape.hist⟩,
      ⟨hcontrol.inFlight, fun _ => ⟨rfl, rfl⟩, hcontrol.code, hcontrol.extent⟩⟩

end Invariant

/-! ## What an access of a register does -/

section Access

variable {s : State} {a : Offset} {r : Reg}

/-- A read that is not drawn, because BUSY = 0 or the register is readable busy, returns the register (rule R90). -/
theorem hostRead_register (hrst : s.rstN = true) (hreg : regAt a = r)
    (hread : s.busy = false ∨ readableBusy r = true) : hostRead a s = returnRead (readReg s r) s := by
  subst hreg
  obtain hb | hr := hread
  · exact hostRead_idle a hrst hb
  · simp [hostRead, hrst, hr]

/-- A write that is not ignored, because BUSY = 0 or the register is writable busy, is one of the register (rule
R91). -/
theorem hostWrite_register (v : Word) (hrst : s.rstN = true) (hreg : regAt a = r)
    (hwrite : s.busy = false ∨ writableBusy r = true) : hostWrite a v s = writeReg v s r := by
  subst hreg
  obtain hb | hw := hwrite
  · exact hostWrite_idle a v hrst hb
  · simp [hostWrite, hrst, hw]

/-- While rst_n is low the bus is ignored and the engine does nothing (rule R340). -/
theorem hostRead_held (a : Offset) (hlow : s.rstN = false) : hostRead a s = s := by simp [hostRead, hlow]

theorem hostWrite_held (a : Offset) (v : Word) (hlow : s.rstN = false) : hostWrite a v s = s := by
  simp [hostWrite, hlow]

theorem engineTurn_held (hlow : s.rstN = false) : engineTurn s = .next s := by simp [engineTurn, hlow]

end Access

/-! ## The words of STATUS, CTRL, VSEL and PARAM -/

/-- The bits of STATUS (rules R36 to R41, R90). -/
theorem statusWord_getLsbD (s : State) (i : Nat) :
    (statusWord s).getLsbD i =
      if i = 0 then s.busy else if i = 1 then s.done else if i = 2 then decide (s.errcode ≠ 0)
      else if i = 3 then s.ovr else if i = 4 then s.range
      else if 8 ≤ i ∧ i < 12 then s.errcode.getLsbD (i - 8) else false := by
  have herr : errFlag s = decide (s.errcode ≠ 0) := by simp [errFlag, bne, BEq.beq]
  simp only [statusWord, herr, BitVec.getLsbD_or, flagAt_getLsbD _ (show 0 < 32 by omega),
    flagAt_getLsbD _ (show 1 < 32 by omega), flagAt_getLsbD _ (show 2 < 32 by omega),
    flagAt_getLsbD _ (show 3 < 32 by omega), flagAt_getLsbD _ (show 4 < 32 by omega), BitVec.getLsbD_shiftLeft,
    BitVec.getLsbD_setWidth]
  by_cases hi : i < 12
  · interval_cases i <;> simp
  · have hcode : s.errcode.getLsbD (i - 8) = false := BitVec.getLsbD_of_ge _ _ (by omega)
    simp [hcode, show i ≠ 0 by omega, show i ≠ 1 by omega, show i ≠ 2 by omega, show i ≠ 3 by omega,
      show i ≠ 4 by omega]

/-- A word with one flag in bit 0 (rules R35, R86). -/
theorem flagAt_zero_getLsbD (b : Bool) (i : Nat) : (flagAt 0 b).getLsbD i = if i = 0 then b else false := by
  rw [flagAt_getLsbD b (by omega)]
  by_cases hi : i = 0 <;> simp [hi]

/-- A register number read as a word (rules R47, R86). -/
theorem vselWord_getLsbD (k : VNum) (i : Nat) :
    (k.setWidth 32).getLsbD i = if i < 2 then k.getLsbD i else false := by
  rw [BitVec.getLsbD_setWidth]
  by_cases hi : i < 2
  · simp [hi, show i < 32 by omega]
  · simp [hi, BitVec.getLsbD_of_ge k i (by omega)]

/-- Bit 0 alone of a word, as CTRL keeps and returns it (rules R35, R86). -/
theorem flagAt_bit_zero (v : Word) : flagAt 0 (v.getLsbD 0) = v &&& 1 := by
  refine BitVec.eq_of_getLsbD_eq fun i hi => ?_
  have hone : (1 : Word).getLsbD i = decide (i = 0) := by simp [BitVec.getLsbD_one]
  rw [flagAt_zero_getLsbD, BitVec.getLsbD_and, hone]
  by_cases h0 : i = 0 <;> simp [h0]

/-- The two low bits of a word, as VSEL keeps and returns them (rules R47, R86). -/
theorem vselWord_low_bits (v : Word) : (v.extractLsb' 0 2).setWidth 32 = v &&& 3 := by
  apply BitVec.eq_of_toNat_eq
  have hmod : v.toNat % 4 = v.toNat &&& 3 := (Nat.and_two_pow_sub_one_eq_mod v.toNat 2).symm
  have hsmall : v.toNat % 4 % 4294967296 = v.toNat % 4 := Nat.mod_eq_of_lt (by omega)
  simpa [BitVec.extractLsb'_toNat, hsmall] using hmod

/-- PARAM as a number: HDEPTH in the high half, NMAX in the low one (rule R34). -/
theorem paramWord_eq {c : Config} (h : c.ok) : paramWord c = BitVec.ofNat 32 (c.hdepth * 65536 + c.nmax) := by
  obtain ⟨-, hn, -, hd⟩ := h
  apply BitVec.eq_of_toNat_eq
  have hconcat : c.hdepth <<< 16 ||| c.nmax = c.hdepth * 65536 + c.nmax := by
    rw [← Nat.shiftLeft_add_eq_or_of_lt (by omega), Nat.shiftLeft_eq]
  simp only [paramWord, BitVec.setWidth_eq, BitVec.toNat_append, BitVec.toNat_ofNat]
  rw [Nat.mod_eq_of_lt (by omega), Nat.mod_eq_of_lt (by omega), hconcat]
  omega

/-! ## The stored registers -/

/-- The registers that store the word written (rules R43 to R46, R48, R49, R53). -/
def storesWord : Reg → Bool
  | .nreg | .treg | .mrows | .mcols | .matrow | .matcol | .vidx | .vlen | .hrow | .hidx => true
  | _ => false

/-- A read of a stored register returns the word written to it last (rules R91, R102). -/
theorem readReg_writeReg {r : Reg} (h : storesWord r = true) (v : Word) (s : State) :
    readReg (writeReg v s r) r = v := by
  cases r with
  | vlen => exact (Quad.get_set s.vlen s.vsel s.vsel v).trans (if_pos rfl)
  | nreg | treg | mrows | mcols | matrow | matcol | vidx | hrow | hidx => rfl
  | _ => exact nomatch h

/-- A write of a stored register neither starts a command nor returns a value. -/
theorem writeReg_stored_untouched {r : Reg} (h : storesWord r = true) (v : Word) (s : State) :
    (writeReg v s r).rstN = s.rstN ∧ (writeReg v s r).busy = s.busy ∧ (writeReg v s r).reads = s.reads := by
  cases r with
  | nreg | treg | mrows | mcols | matrow | matcol | vidx | vlen | hrow | hidx => exact ⟨rfl, rfl, rfl⟩
  | _ => exact nomatch h

/-- The offsets of the stored registers are those of rule R84, and each reads as its register. -/
theorem storedRegisters_spec (s : State) :
    ∀ p ∈ storedRegisters s, storesWord (regAt p.1) = true ∧ readReg s (regAt p.1) = p.2 := by
  simp only [storedRegisters, List.forall_mem_cons]
  exact ⟨⟨rfl, rfl⟩, ⟨rfl, rfl⟩, ⟨rfl, rfl⟩, ⟨rfl, rfl⟩, ⟨rfl, rfl⟩, ⟨rfl, rfl⟩, ⟨rfl, rfl⟩, ⟨rfl, rfl⟩, ⟨rfl, rfl⟩,
    ⟨rfl, rfl⟩, List.forall_mem_nil _⟩

/-- The read-only offsets read as their registers (rules R33, R34, R42, R54). -/
theorem readOnlyRegisters_spec {s : State} (h : s.cfg.ok) :
    ∀ p ∈ readOnlyRegisters s, readReg s (regAt p.1) = p.2 := by
  simp only [readOnlyRegisters, List.forall_mem_cons]
  exact ⟨rfl, paramWord_eq h, rfl, rfl, rfl, List.forall_mem_nil _⟩

/-! ## What a register write reaches -/

/-- No register write changes HIST; only the windows of MAT change MAT, and only those of VREG a vector register (rule
R99). -/
theorem writeReg_memories (v : Word) (s : State) (r : Reg) :
    (writeReg v s r).hist = s.hist ∧
      (¬ (r = .matelem ∨ r = .matword) → (writeReg v s r).mat = s.mat) ∧
      (¬ (r = .velem ∨ r = .vword) → (writeReg v s r).vreg = s.vreg) := by
  cases r with
  | matelem => rw [writeReg, matElemWrite_untouched]; exact ⟨rfl, fun h => absurd (.inl rfl) h, fun _ => rfl⟩
  | matword => rw [writeReg, matWordWrite_untouched]; exact ⟨rfl, fun h => absurd (.inr rfl) h, fun _ => rfl⟩
  | velem => rw [writeReg, vElemWrite_untouched]; exact ⟨rfl, fun _ => rfl, fun h => absurd (.inl rfl) h⟩
  | vword => rw [writeReg, vWordWrite_untouched]; exact ⟨rfl, fun _ => rfl, fun h => absurd (.inr rfl) h⟩
  | _ => exact ⟨rfl, fun _ => rfl, fun _ => rfl⟩

/-- The windows of MAT are at offsets 0x038 to 0x03F (rule R84). -/
theorem regAt_matWindow (a : Offset) :
    (regAt a = .matelem ∨ regAt a = .matword) ↔ 0x038 ≤ a.toNat ∧ a.toNat < 0x040 := by
  have h := regAt_cases (P := fun n r => (r = .matelem ∨ r = .matword) ↔ 14 ≤ n ∧ n < 16) (by decide)
    (fun n hn => by simp; omega) a
  rw [h]
  omega

/-- The windows of VREG are at offsets 0x048 to 0x04F (rule R84). -/
theorem regAt_vregWindow (a : Offset) :
    (regAt a = .velem ∨ regAt a = .vword) ↔ 0x048 ≤ a.toNat ∧ a.toNat < 0x050 := by
  have h := regAt_cases (P := fun n r => (r = .velem ∨ r = .vword) ↔ 18 ≤ n ∧ n < 20) (by decide)
    (fun n hn => by simp; omega) a
  rw [h]
  omega

/-- STATUS is at offsets 0x00C to 0x00F (rule R84). -/
theorem regAt_eq_status (a : Offset) : regAt a = .status ↔ 0x00C ≤ a.toNat ∧ a.toNat < 0x010 := by
  have h := regAt_cases (P := fun n r => r = .status ↔ n = 3) (by decide) (fun n hn => by simp; omega) a
  rw [h]
  omega

/-! ## OVR and RANGE -/

/-- A write of this register is one of a window data register whose index points outside its memory (rule R40). -/
def pointsOutside (s : State) : Reg → Bool
  | .matelem => decide ¬(s.matrow.toNat < s.cfg.dmax ∧ s.matcol.toNat < s.cfg.dmax)
  | .matword => decide ¬(s.matrow.toNat < s.cfg.dmax ∧ wordBase s.matcol < s.cfg.dmax)
  | .velem => decide ¬(s.vidx.toNat < s.cfg.dmax)
  | .vword => decide ¬(wordBase s.vidx < s.cfg.dmax)
  | _ => false

theorem window_of_pointsOutside {s : State} {r : Reg} (h : pointsOutside s r = true) :
    (r = .matelem ∨ r = .matword) ∨ (r = .velem ∨ r = .vword) := by
  cases r with
  | matelem | matword | velem | vword => simp
  | _ => exact nomatch h

/-- RANGE after a register write: STATUS clears it where bit 4 is 1, a window index outside its memory sets it, and no
other write touches it (rules R40, R91). -/
theorem writeReg_range (v : Word) (s : State) (r : Reg) :
    (writeReg v s r).range = if r = .status then s.range && !v.getLsbD 4 else s.range || pointsOutside s r := by
  cases r with
  | matelem =>
    simp only [writeReg, matElemWrite, pointsOutside]
    split <;> simp [*]
  | matword =>
    simp only [writeReg, matWordWrite, pointsOutside]
    split <;> simp [*]
  | velem =>
    simp only [writeReg, vElemWrite, pointsOutside]
    split <;> simp [*]
  | vword =>
    simp only [writeReg, vWordWrite, pointsOutside]
    split <;> simp [*]
  | status => rfl
  | _ => exact (Bool.or_false _).symm

/-- OVR after a register write: STATUS clears it where bit 3 is 1, and no other write touches it (rules R39, R91). -/
theorem writeReg_ovr (v : Word) (s : State) (r : Reg) :
    (writeReg v s r).ovr = if r = .status then s.ovr && !v.getLsbD 3 else s.ovr := by
  cases r with
  | matelem => rw [writeReg, matElemWrite_untouched]; rfl
  | matword => rw [writeReg, matWordWrite_untouched]; rfl
  | velem => rw [writeReg, vElemWrite_untouched]; rfl
  | vword => rw [writeReg, vWordWrite_untouched]; rfl
  | _ => rfl

/-- Everything a host write can do to OVR (rules R39, R91). -/
theorem hostWrite_ovr_cases (a : Offset) (v : Word) (s : State) :
    (hostWrite a v s).ovr = s.ovr ∨
      (s.busy = true ∧ ¬ ctrlOrStatus a ∧ (hostWrite a v s).ovr = true) ∨
      ((0x00C ≤ a.toNat ∧ a.toNat < 0x010) ∧ (hostWrite a v s).ovr = (s.ovr && !v.getLsbD 3)) := by
  obtain ⟨-, h⟩ | ⟨-, hb, hw, h⟩ | ⟨-, -, h⟩ := hostWrite_cases a v s <;> rw [h]
  · exact .inl rfl
  · exact .inr (.inl ⟨hb, fun hin => by simp [(writableBusy_regAt a).2 hin] at hw, rfl⟩)
  · rw [writeReg_ovr]
    split
    · next hst => exact .inr (.inr ⟨(regAt_eq_status a).1 hst, rfl⟩)
    · exact .inl rfl

/-- Everything a host write can do to RANGE (rules R40, R91). -/
theorem hostWrite_range_cases (a : Offset) (v : Word) (s : State) :
    (hostWrite a v s).range = s.range ∨
      (s.busy = false ∧ ((0x038 ≤ a.toNat ∧ a.toNat < 0x040) ∨ (0x048 ≤ a.toNat ∧ a.toNat < 0x050)) ∧
        (hostWrite a v s).range = true) ∨
      ((0x00C ≤ a.toNat ∧ a.toNat < 0x010) ∧ (hostWrite a v s).range = (s.range && !v.getLsbD 4)) := by
  obtain ⟨-, h⟩ | ⟨-, -, -, h⟩ | ⟨-, hidle, h⟩ := hostWrite_cases a v s <;> rw [h]
  · exact .inl rfl
  · exact .inl rfl
  · rw [writeReg_range]
    split
    · next hst => exact .inr (.inr ⟨(regAt_eq_status a).1 hst, rfl⟩)
    · cases hout : pointsOutside s (regAt a) with
      | false => exact .inl (Bool.or_false _)
      | true =>
        have hwin := (window_of_pointsOutside hout).imp (regAt_matWindow a).1 (regAt_vregWindow a).1
        have hidle : s.busy = false := hidle.resolve_right fun hw => by
          have := (writableBusy_regAt a).1 hw
          omega
        exact .inr (.inl ⟨hidle, hwin, Bool.or_true _⟩)

/-- No command touches OVR or RANGE (rule R56). -/
theorem exec_flags {i : Instr} {s t : State} (h : exec i s = .next t) : t.ovr = s.ovr ∧ t.range = s.range := by
  obtain ⟨-, hnext⟩ | ⟨code, -, -, hnext⟩ := exec_cases i s <;> rw [hnext] at h <;> cases h
  · rw [writtenBy_untouched]
    exact ⟨rfl, rfl⟩
  · exact ⟨rfl, rfl⟩

theorem engineTurn_flags {s t : State} (h : engineTurn s = .next t) : t.ovr = s.ovr ∧ t.range = s.range := by
  obtain ⟨-, hnext⟩ | ⟨-, -, hnext⟩ | ⟨-, i, -, hnext⟩ := engineTurn_cases s <;> rw [hnext] at h
  · cases h
    exact ⟨rfl, rfl⟩
  · cases h
    exact ⟨rfl, rfl⟩
  · exact exec_flags h

theorem hostRead_flags (a : Offset) (s : State) : (hostRead a s).ovr = s.ovr ∧ (hostRead a s).range = s.range := by
  obtain ⟨-, h⟩ | ⟨-, -, -, h⟩ | ⟨-, -, h⟩ := hostRead_cases a s <;> rw [h] <;> exact ⟨rfl, rfl⟩

/-- Everything a step can do to OVR and RANGE: only a reset and a host write touch them, the write taking place in a
state `u` that has the flags and BUSY of `s`. -/
theorem step_flags_cases {s t : State} (h : step s = .next t) :
    (t.ovr = s.ovr ∧ t.range = s.range) ∨
      ∃ rest, (s.inputs = .reset false :: rest ∧ t.ovr = false ∧ t.range = false) ∨
        ∃ a v u, s.inputs = .write a v :: rest ∧ u.ovr = s.ovr ∧ u.range = s.range ∧ u.busy = s.busy ∧
          t = hostWrite a v u := by
  obtain ⟨-, hnext⟩ | ⟨rest, ⟨a, -, hnext⟩ | ⟨a, v, hin, hnext⟩ | ⟨-, hnext⟩ | ⟨l, hin, hnext⟩⟩ := step_cases s <;>
    rw [hnext] at h
  · exact .inl (engineTurn_flags h)
  · cases h
    exact .inl (hostRead_flags a _)
  · cases h
    exact .inr ⟨rest, .inr ⟨a, v, { s with inputs := rest }, hin, rfl, rfl, rfl, rfl⟩⟩
  · exact .inl (engineTurn_flags (s := { s with inputs := rest }) h)
  · cases h
    cases l with
    | true => exact .inl ⟨rfl, rfl⟩
    | false => exact .inr ⟨rest, .inl ⟨hin, rfl, rfl⟩⟩

/-! ## Flags that no command reads -/

/-- The state with other values of DONE, OVR, RANGE and ERRCODE. -/
def withFlags (done ovr range : Bool) (code : BitVec 4) (s : State) : State :=
  { s with done := done, ovr := ovr, range := range, errcode := code }

/-- No check reads a flag (rule R56). -/
theorem checksOf_withFlags (i : Instr) (done ovr range : Bool) (code : BitVec 4) (s : State) :
    checksOf i (withFlags done ovr range code s) = checksOf i s := by
  cases i <;> rfl

/-- What a command writes does not depend on a flag, and leaves the flags as they are (rule R56). -/
theorem writtenBy_withFlags (i : Instr) (done ovr range : Bool) (code : BitVec 4) (s : State) :
    writtenBy i (withFlags done ovr range code s) = withFlags done ovr range code (writtenBy i s) := by
  cases i <;> rfl

/-! ## The statements -/

/-- Settles O59, by the cases of a step: each input from outside and the engine's turn keep the invariant. -/
theorem stepKeepsTheInvariant : Obligations.StepKeepsTheInvariant := by
  unfold Obligations.StepKeepsTheInvariant
  intro s t hinv hstep
  have hrest (rest : List Event) : { s with inputs := rest }.Inv :=
    inv_of_unconstrained hinv s.ovr rest s.reads s.draws
  obtain ⟨-, hnext⟩ | ⟨rest, ⟨a, -, hnext⟩ | ⟨a, v, -, hnext⟩ | ⟨-, hnext⟩ | ⟨l, -, hnext⟩⟩ := step_cases s <;>
    rw [hnext] at hstep
  · exact engineTurn_inv hinv hstep
  · cases hstep
    exact hostRead_inv (hrest rest) a
  · cases hstep
    exact hostWrite_inv (hrest rest) a v
  · exact engineTurn_inv (hrest rest) hstep
  · cases hstep
    exact driveReset_inv (hrest rest) l

/-- Settles O12: neither the checks nor the writes of a command depend on a flag, and its completion overwrites DONE and
ERRCODE. -/
theorem noCommandReadsAFlag : Obligations.NoCommandReadsAFlag := by
  unfold Obligations.NoCommandReadsAFlag
  intro i s done ovr range code
  have hchecks := checksOf_withFlags i done ovr range code s
  obtain ⟨hpass, hnext⟩ | ⟨err, -, herr, hnext⟩ := exec_cases i s
  · refine ⟨_, hnext, (exec_of_checks_pass (s := withFlags done ovr range code s) (hchecks ▸ hpass)).trans ?_⟩
    rw [writtenBy_withFlags]
    rfl
  · refine ⟨_, hnext, (exec_eq_attempt i (withFlags done ovr range code s)).trans ?_⟩
    exact attempt_raise _ _ (hchecks ▸ herr)

/-- Settles O43: the word each read returns is known, and its bits are. -/
theorem statusCtrlVselReads : Obligations.StatusCtrlVselReads := by
  unfold Obligations.StatusCtrlVselReads
  intro s hrst
  refine ⟨⟨statusWord s, hostRead_register (r := .status) hrst (by decide) (.inr rfl), statusWord_getLsbD s⟩,
    ⟨flagAt 0 s.ie, hostRead_register (r := .ctrl) hrst (by decide) (.inr rfl), flagAt_zero_getLsbD s.ie⟩,
    fun hidle => ?_⟩
  exact ⟨s.vsel.setWidth 32, hostRead_register (r := .vsel) hrst (by decide) (.inl hidle), vselWord_getLsbD s.vsel⟩

/-- Settles O44: a write of a stored register is one of that register, which then reads as the word written. -/
theorem storedRegistersReadBack : Obligations.StoredRegistersReadBack := by
  unfold Obligations.StoredRegistersReadBack
  intro s v hrst hidle
  have write (a : Offset) : hostWrite a v s = writeReg v s (regAt a) := hostWrite_idle a v hrst hidle
  refine ⟨⟨write _, write _, write _, write _, write _, write _, write _, write _, write _, write _⟩, fun p hp => ?_⟩
  obtain ⟨hstores, -⟩ := storedRegisters_spec s p hp
  obtain ⟨hrst', hbusy', hreads'⟩ := writeReg_stored_untouched hstores v s
  rw [write, hostRead_idle p.1 (hrst'.trans hrst) (hbusy'.trans hidle), returnRead_reads, hreads',
    readReg_writeReg hstores]

/-- Settles O45: the bits CTRL and VSEL keep, and the words they then return. -/
theorem ctrlAndVselWrites : Obligations.CtrlAndVselWrites := by
  unfold Obligations.CtrlAndVselWrites
  intro s v hrst
  constructor
  · have hwrite : hostWrite 0x008 v s = { s with ie := v.getLsbD 0 } :=
      hostWrite_register (r := .ctrl) v hrst (by decide) (.inr rfl)
    have hread : hostRead 0x008 { s with ie := v.getLsbD 0 } = { s with ie := v.getLsbD 0, reads := _ } :=
      hostRead_register (r := .ctrl) hrst (by decide) (.inr rfl)
    refine ⟨hwrite, ?_⟩
    rw [hwrite, hread, ← flagAt_bit_zero]
    rfl
  · intro hidle
    have hwrite : hostWrite 0x040 v s = { s with vsel := v.extractLsb' 0 2 } :=
      hostWrite_register (r := .vsel) v hrst (by decide) (.inl hidle)
    have hread : hostRead 0x040 { s with vsel := v.extractLsb' 0 2 } =
        { s with vsel := v.extractLsb' 0 2, reads := _ } :=
      hostRead_register (r := .vsel) hrst (by decide) (.inl hidle)
    refine ⟨hwrite, ?_⟩
    rw [hwrite, hread, ← vselWord_low_bits]
    rfl

/-- Settles O46: each of the three flags stays exactly where its bit is 0. -/
theorem statusWriteOneToClear : Obligations.StatusWriteOneToClear := by
  unfold Obligations.StatusWriteOneToClear
  intro s v hrst
  have keep (flag bit : Bool) : (flag && !bit) = if bit then false else flag := by cases bit <;> simp
  rw [hostWrite_register (r := .status) v hrst (by decide) (.inr rfl), writeReg, writeStatus, keep, keep, keep]

/-- Settles O48: a write that has an effect is one of a register, and only the window data registers reach a memory. -/
theorem hostWritesReachMemoriesOnlyThroughWindows : Obligations.HostWritesReachMemoriesOnlyThroughWindows := by
  unfold Obligations.HostWritesReachMemoriesOnlyThroughWindows
  intro s a v
  rw [← regAt_matWindow, ← regAt_vregWindow]
  obtain ⟨-, h⟩ | ⟨-, -, -, h⟩ | ⟨-, -, h⟩ := hostWrite_cases a v s <;> rw [h]
  · exact ⟨rfl, fun _ => rfl, fun _ => rfl⟩
  · exact ⟨rfl, fun _ => rfl, fun _ => rfl⟩
  · exact writeReg_memories v s (regAt a)

/-- Settles O55: of all steps only a reset and a host write touch the flags, and of the writes only the busy one that
is ignored, the window writes and that of STATUS. -/
theorem stickyFlags : Obligations.StickyFlags := by
  unfold Obligations.StickyFlags
  intro s t hstep
  obtain ⟨hovr, hrange⟩ | ⟨rest, ⟨hin, hovr, hrange⟩ | ⟨a, v, u, hin, hovr, hrange, hbusy, rfl⟩⟩ :=
    step_flags_cases hstep
  · rw [hovr, hrange]
    exact ⟨fun h0 h1 => by simp [h0] at h1, fun h1 h0 => by simp [h1] at h0, fun h0 h1 => by simp [h0] at h1,
      fun h1 h0 => by simp [h1] at h0⟩
  · rw [hovr, hrange]
    exact ⟨nofun, fun _ _ => ⟨rest, .inl hin⟩, nofun, fun _ _ => ⟨rest, .inl hin⟩⟩
  · rw [← hovr, ← hrange, ← hbusy]
    refine ⟨fun h0 h1 => ?_, fun h1 h0 => ?_, fun h0 h1 => ?_, fun h1 h0 => ?_⟩
    · obtain h | ⟨hbusy, hout, -⟩ | ⟨-, h⟩ := hostWrite_ovr_cases a v u
      · simp [h, h0] at h1
      · exact ⟨a, v, rest, hin, hbusy, hout⟩
      · simp [h, h0] at h1
    · obtain h | ⟨-, -, h⟩ | ⟨⟨hlow, hhigh⟩, h⟩ := hostWrite_ovr_cases a v u
      · simp [h, h1] at h0
      · simp [h] at h0
      · exact ⟨rest, .inr ⟨a, v, hin, hlow, hhigh, by simpa [h, h1] using h0⟩⟩
    · obtain h | ⟨hidle, hwin, -⟩ | ⟨-, h⟩ := hostWrite_range_cases a v u
      · simp [h, h0] at h1
      · exact ⟨a, v, rest, hin, hidle, hwin⟩
      · simp [h, h0] at h1
    · obtain h | ⟨-, -, h⟩ | ⟨⟨hlow, hhigh⟩, h⟩ := hostWrite_range_cases a v u
      · simp [h, h1] at h0
      · simp [h] at h0
      · exact ⟨rest, .inr ⟨a, v, hin, hlow, hhigh, by simpa [h, h1] using h0⟩⟩

/-- Settles O42: a read returns the register at its offset, ID and PARAM being readable busy too. -/
theorem idleReadsReturnRegisters : Obligations.IdleReadsReturnRegisters := by
  unfold Obligations.IdleReadsReturnRegisters
  intro s hok hrst
  refine ⟨fun hidle p hp => ?_, hostRead_register (r := .id) hrst (by decide) (.inr rfl), ?_⟩
  · have hvalue : readReg s (regAt p.1) = p.2 := by
      obtain hp | hp := List.mem_append.1 hp
      · exact (storedRegisters_spec s p hp).2
      · exact readOnlyRegisters_spec hok p hp
    rw [hostRead_idle p.1 hrst hidle, hvalue]
    rfl
  · rw [← paramWord_eq hok]
    exact hostRead_register (r := .param) hrst (by decide) (.inr rfl)

/-- Settles O57: the values are those of `resetOf`, and every access and the engine ask for rst_n high first. -/
theorem resetHeld : Obligations.ResetHeld := by
  unfold Obligations.ResetHeld
  intro s
  exact ⟨rfl, rfl, rfl,
    fun u hlow => ⟨fun a => hostRead_held a hlow, fun a v => hostWrite_held a v hlow, engineTurn_held hlow⟩, rfl⟩

end Sys2Proof.Machine

/-! Proofs of the statements of the family 20_memory: what an access addresses and changes, what a read of each window
returns, what a write of each leaves, and whose turn a step is. -/

namespace Sys2Proof.Machine

open Sys2Proof

/-! ## Reserved and read-only registers -/

/-- The registers whose writes are ignored (rules R85, R91). -/
def ignoresWrite : Reg → Bool
  | .id | .param | .hcode | .hword | .hrows | .hm | .reserved => true
  | _ => false

theorem writeReg_ignored {r : Reg} (h : ignoresWrite r = true) (v : Word) (s : State) : writeReg v s r = s := by
  cases r with
  | id | param | hcode | hword | hrows | hm | reserved => rfl
  | _ => exact nomatch h

/-- The gaps of the map are reserved (rules R84, R85). -/
theorem regAt_reserved {a : Offset}
    (h : (0x024 ≤ a.toNat ∧ a.toNat < 0x030) ∨ (0x054 ≤ a.toNat ∧ a.toNat < 0x060) ∨ 0x078 ≤ a.toNat) :
    regAt a = .reserved :=
  regAt_cases (P := fun n r => (9 ≤ n ∧ n < 12) ∨ (21 ≤ n ∧ n < 24) ∨ 30 ≤ n → r = .reserved) (by decide)
    (fun _ _ _ => rfl) a (by omega)

/-- ID, PARAM and the offsets 0x068 to 0x077 ignore writes (rules R84, R91). -/
theorem ignoresWrite_regAt {a : Offset} (h : a.toNat < 0x008 ∨ (0x068 ≤ a.toNat ∧ a.toNat < 0x078)) :
    ignoresWrite (regAt a) = true :=
  regAt_cases (P := fun n r => n < 2 ∨ (26 ≤ n ∧ n < 30) → ignoresWrite r = true) (by decide)
    (fun _ _ _ => rfl) a (by omega)

/-! ## The windows onto MAT -/

/-- A write of MATELEM neither drives rst_n, starts a command nor returns a value. -/
theorem matElemWrite_port (v : Word) (s : State) :
    (matElemWrite v s).rstN = s.rstN ∧ (matElemWrite v s).busy = s.busy ∧ (matElemWrite v s).reads = s.reads := by
  rw [matElemWrite_untouched]
  exact ⟨rfl, rfl, rfl⟩

section Matrix

variable {s : State}

/-- A write of MATELEM inside the matrix changes MAT alone (rule R92). -/
theorem matElemWrite_inside (v : Word) (h : s.matrow.toNat < s.cfg.dmax ∧ s.matcol.toNat < s.cfg.dmax) :
    matElemWrite v s = { s with mat := (matElemWrite v s).mat } := by
  simp only [matElemWrite, if_pos h]

/-- A write of MATELEM outside the matrix sets RANGE alone (rules R40, R92). -/
theorem matElemWrite_outside (v : Word) (h : ¬ (s.matrow.toNat < s.cfg.dmax ∧ s.matcol.toNat < s.cfg.dmax)) :
    matElemWrite v s = { s with range := true } := if_neg h

theorem matElemRead_inside (h : s.matrow.toNat < s.cfg.dmax ∧ s.matcol.toNat < s.cfg.dmax) :
    matElemRead s = flagAt 0 (matBit s s.matrow.toNat s.matcol.toNat) := if_pos h

theorem matElemRead_outside (h : ¬ (s.matrow.toNat < s.cfg.dmax ∧ s.matcol.toNat < s.cfg.dmax)) :
    matElemRead s = 0 := if_neg h

/-- MATELEM reads back the bit written to it (rules R92, R100). -/
theorem matElemRead_matElemWrite (v : Word) (h : s.matrow.toNat < s.cfg.dmax ∧ s.matcol.toNat < s.cfg.dmax) :
    matElemRead (matElemWrite v s) = v &&& 1 := by
  have hbit : matBit (matElemWrite v s) s.matrow.toNat s.matcol.toNat = v.getLsbD 0 :=
    (matBit_matElemWrite h h.2).trans (if_pos ⟨rfl, rfl⟩)
  have hread : matElemRead (matElemWrite v s) =
      flagAt 0 (matBit (matElemWrite v s) s.matrow.toNat s.matcol.toNat) := by
    rw [matElemWrite_inside v h]
    exact matElemRead_inside h
  rw [hread, hbit, flagAt_bit_zero]

/-- The bits of MATWORD, 0 outside the matrix (rule R93). -/
theorem matWordRead_getLsbD {j : Nat} (hj : j < 32) :
    (matWordRead s).getLsbD j =
      (decide (s.matrow.toNat < s.cfg.dmax ∧ wordBase s.matcol + j < s.cfg.dmax)
        && matBit s s.matrow.toNat (wordBase s.matcol + j)) := by
  rw [matWordRead, packBits_getLsbD _ (Nat.le_refl 32), decide_eq_true hj, Bool.true_and]

/-- A write of MATWORD that starts inside the matrix changes MAT alone (rule R93). -/
theorem matWordWrite_inside (v : Word) (h : s.matrow.toNat < s.cfg.dmax ∧ wordBase s.matcol < s.cfg.dmax) :
    matWordWrite v s = { s with mat := (matWordWrite v s).mat } := by
  simp only [matWordWrite, if_pos h]

/-- A write of MATWORD wholly outside the matrix sets RANGE alone (rules R40, R93). -/
theorem matWordWrite_outside (v : Word) (h : ¬ (s.matrow.toNat < s.cfg.dmax ∧ wordBase s.matcol < s.cfg.dmax)) :
    matWordWrite v s = { s with range := true } := if_neg h

end Matrix

/-! ## The windows onto the vector registers -/

/-- A write of VELEM neither drives rst_n, starts a command nor returns a value. -/
theorem vElemWrite_port (v : Word) (s : State) :
    (vElemWrite v s).rstN = s.rstN ∧ (vElemWrite v s).busy = s.busy ∧ (vElemWrite v s).reads = s.reads := by
  rw [vElemWrite_untouched]
  exact ⟨rfl, rfl, rfl⟩

section Vector

variable {s : State}

/-- A write of VELEM inside the register changes VREG alone (rule R94). -/
theorem vElemWrite_inside (v : Word) (h : s.vidx.toNat < s.cfg.dmax) :
    vElemWrite v s = { s with vreg := (vElemWrite v s).vreg } := by
  simp only [vElemWrite, if_pos h]

/-- A write of VELEM outside the register sets RANGE alone (rules R40, R94). -/
theorem vElemWrite_outside (v : Word) (h : s.cfg.dmax ≤ s.vidx.toNat) :
    vElemWrite v s = { s with range := true } := if_neg (Nat.not_lt.2 h)

theorem vElemRead_inside (h : s.vidx.toNat < s.cfg.dmax) :
    vElemRead s = flagAt 0 (vregBit s s.vsel s.vidx.toNat) := if_pos h

theorem vElemRead_outside (h : s.cfg.dmax ≤ s.vidx.toNat) : vElemRead s = 0 := if_neg (Nat.not_lt.2 h)

/-- VELEM reads back the bit written to it (rules R94, R100). -/
theorem vElemRead_vElemWrite (v : Word) (h : s.vidx.toNat < s.cfg.dmax) :
    vElemRead (vElemWrite v s) = v &&& 1 := by
  have hbit : vregBit (vElemWrite v s) s.vsel s.vidx.toNat = v.getLsbD 0 :=
    (vregBit_vElemWrite h s.vsel s.vidx.toNat).trans (if_pos ⟨rfl, rfl⟩)
  have hread : vElemRead (vElemWrite v s) = flagAt 0 (vregBit (vElemWrite v s) s.vsel s.vidx.toNat) := by
    rw [vElemWrite_inside v h]
    exact vElemRead_inside h
  rw [hread, hbit, flagAt_bit_zero]

/-- The bits of VWORD, 0 outside the register (rule R95). -/
theorem vWordRead_getLsbD {j : Nat} (hj : j < 32) :
    (vWordRead s).getLsbD j =
      (decide (wordBase s.vidx + j < s.cfg.dmax) && vregBit s s.vsel (wordBase s.vidx + j)) := by
  rw [vWordRead, packBits_getLsbD _ (Nat.le_refl 32), decide_eq_true hj, Bool.true_and]

/-- A write of VWORD that starts inside the register changes VREG alone (rule R95). -/
theorem vWordWrite_inside (v : Word) (h : wordBase s.vidx < s.cfg.dmax) :
    vWordWrite v s = { s with vreg := (vWordWrite v s).vreg } := by
  simp only [vWordWrite, if_pos h]

/-- A write of VWORD wholly outside the register sets RANGE alone (rules R40, R95). -/
theorem vWordWrite_outside (v : Word) (h : s.cfg.dmax ≤ wordBase s.vidx) :
    vWordWrite v s = { s with range := true } := if_neg (Nat.not_lt.2 h)

end Vector

/-! ## The windows onto HIST -/

/-- HCODE as a number, 0 outside HIST (rule R97). -/
theorem hCodeRead_toNat (s : State) :
    (hCodeRead s).toNat =
      if s.hrow.toNat < s.cfg.hdepth ∧ s.hidx.toNat < s.cfg.cmax
      then (histCode s s.hrow.toNat s.hidx.toNat).toNat else 0 := by
  unfold hCodeRead
  split
  · exact BitVec.toNat_setWidth_of_le (by omega)
  · rfl

/-- Field j of HWORD is the code of cell base + j, 0 outside HIST (rules R89, R98). -/
theorem hWordRead_field (s : State) {j : Nat} (hj : j < 16) :
    (hWordRead s).extractLsb' (2 * j) 2 =
      if s.hrow.toNat < s.cfg.hdepth ∧ codeBase s.hidx + j < s.cfg.cmax
      then histCode s s.hrow.toNat (codeBase s.hidx + j) else 0 := by
  refine BitVec.eq_of_getLsbD_eq fun i hi => ?_
  have hcell : (2 * j + i) / 2 = j := by omega
  have hbit : (2 * j + i) % 2 = i := by omega
  rw [BitVec.getLsbD_extractLsb', hWordRead, packBits_getLsbD _ (Nat.le_refl 32), hcell, hbit,
    decide_eq_true hi, decide_eq_true (show 2 * j + i < 32 by omega), Bool.true_and, Bool.true_and]
  split
  · next hin => rw [decide_eq_true hin, Bool.true_and]
  · next hout => rw [decide_eq_false hout, Bool.false_and]; exact BitVec.getLsbD_zero.symm

/-! ## The engine's turn -/

/-- With a command in flight and rst_n high the engine's turn performs the command in PEND (rule R163). -/
theorem engineTurn_of_decode {s : State} {i : Instr} (hrst : s.rstN = true) (hbusy : s.busy = true)
    (hdecode : decode s.pend = some i) : engineTurn s = exec i s := by
  simp only [engineTurn, engineStep, hrst, hbusy, hdecode, Bool.and_self, if_true]

/-! ## The statements -/

/-- Settles O6: each input is delivered as it is, and the engine's turn performs the command in PEND. -/
theorem stepRunsTheDecodedCommand : Obligations.StepRunsTheDecodedCommand := by
  unfold Obligations.StepRunsTheDecodedCommand
  intro s rest
  refine ⟨fun i hrst hbusy hdecode => ?_, fun _ => rfl, fun _ _ => rfl, fun _ => rfl⟩
  have turn (inputs : List Event) : engineTurn { s with inputs := inputs } = exec i { s with inputs := inputs } :=
    engineTurn_of_decode hrst hbusy hdecode
  exact ⟨turn [], turn rest⟩

/-- Settles O40: an access depends on its offset only through the register addressed. -/
theorem lowAddressBitsIgnored : Obligations.LowAddressBitsIgnored := by
  unfold Obligations.LowAddressBitsIgnored
  intro s a v
  simp only [hostRead, hostWrite, regAt_aligned, and_self]

/-- Settles O41: a read is either drawn or returns the register at its offset. -/
theorem readsChangeNoState : Obligations.ReadsChangeNoState := by
  unfold Obligations.ReadsChangeNoState
  intro s a hrst
  obtain ⟨hlow, -⟩ | ⟨-, hbusy, hdrawn, h⟩ | ⟨-, hreadable, h⟩ := hostRead_cases a s
  · simp [hrst] at hlow
  · refine ⟨_, _, h, fun _ _ => ⟨rfl, rfl⟩, fun hread => ?_⟩
    obtain hidle | hread := hread
    · simp [hbusy] at hidle
    · simp [(readableBusy_regAt a).2 hread] at hdrawn
  · refine ⟨_, _, h, fun hbusy hnot => ?_, fun _ => rfl⟩
    obtain hidle | hread := hreadable
    · simp [hbusy] at hidle
    · exact absurd ((readableBusy_regAt a).1 hread) hnot

/-- Settles O47: those offsets address registers whose writes are ignored, and the reserved ones read 0. -/
theorem reservedAndReadOnlyOffsets : Obligations.ReservedAndReadOnlyOffsets := by
  unfold Obligations.ReservedAndReadOnlyOffsets
  intro s a v hrst hidle
  rw [hostRead_idle a hrst hidle, hostWrite_idle a v hrst hidle]
  refine ⟨fun hres => ?_, fun hro => writeReg_ignored (ignoresWrite_regAt hro) v s⟩
  rw [regAt_reserved hres]
  exact ⟨rfl, rfl⟩

/-- Settles O49: the accesses are those of MATELEM, whose index is inside the matrix or not. -/
theorem matElemWindow : Obligations.MatElemWindow := by
  unfold Obligations.MatElemWindow
  intro s v hrst hidle
  have hwrite : hostWrite 0x038 v s = matElemWrite v s := hostWrite_idle 0x038 v hrst hidle
  have hread : hostRead 0x038 s = returnRead (matElemRead s) s := hostRead_idle 0x038 hrst hidle
  rw [hwrite, hread]
  refine ⟨fun hrow hcol => ?_, fun hout => ?_⟩
  · refine ⟨_, rfl, matElemWrite_inside v ⟨hrow, hcol⟩, fun i j _ hj => matBit_matElemWrite ⟨hrow, hcol⟩ hj, ?_, ?_⟩
    · rw [matElemRead_inside ⟨hrow, hcol⟩]
      rfl
    · obtain ⟨hrst', hbusy', hreads'⟩ := matElemWrite_port v s
      have hback : readReg (matElemWrite v s) (regAt 0x038) = v &&& 1 := matElemRead_matElemWrite v ⟨hrow, hcol⟩
      rw [hostRead_idle 0x038 (hrst'.trans hrst) (hbusy'.trans hidle), returnRead_reads, hreads', hback]
  · have hnot : ¬ (s.matrow.toNat < s.cfg.dmax ∧ s.matcol.toNat < s.cfg.dmax) := by omega
    rw [matElemWrite_outside v hnot, matElemRead_outside hnot]
    exact ⟨rfl, rfl⟩

/-- Settles O50: the accesses are those of MATWORD, whose first element is inside the matrix or not. -/
theorem matWordWindow : Obligations.MatWordWindow := by
  unfold Obligations.MatWordWindow
  intro s v hrst hidle
  have hwrite : hostWrite 0x03C v s = matWordWrite v s := hostWrite_idle 0x03C v hrst hidle
  rw [hwrite]
  refine ⟨⟨matWordRead s, hostRead_idle 0x03C hrst hidle, fun _ => matWordRead_getLsbD⟩, fun hrow hbase => ?_,
    fun hout => matWordWrite_outside v fun hin => ?_⟩
  · exact ⟨_, rfl, matWordWrite_inside v ⟨hrow, hbase⟩, fun i j _ hj => matBit_matWordWrite ⟨hrow, hbase⟩ hj⟩
  · exact hout.elim (Nat.not_le.2 hin.1) (Nat.not_le.2 hin.2)

/-- Settles O51: the accesses are those of VELEM and VWORD, whose index is inside the register or not. -/
theorem vectorWindows : Obligations.VectorWindows := by
  unfold Obligations.VectorWindows
  intro s v hrst hidle
  have hwrite : hostWrite 0x048 v s = vElemWrite v s := hostWrite_idle 0x048 v hrst hidle
  have hread : hostRead 0x048 s = returnRead (vElemRead s) s := hostRead_idle 0x048 hrst hidle
  have hwriteWord : hostWrite 0x04C v s = vWordWrite v s := hostWrite_idle 0x04C v hrst hidle
  rw [hwrite, hread, hwriteWord]
  refine ⟨fun hin => ⟨?_, ?_⟩, fun hout => ?_,
    ⟨vWordRead s, hostRead_idle 0x04C hrst hidle, fun _ => vWordRead_getLsbD⟩,
    fun hbase => ⟨_, rfl, vWordWrite_inside v hbase, vregBit_vWordWrite hbase⟩, vWordWrite_outside v⟩
  · refine ⟨_, rfl, vElemWrite_inside v hin, vregBit_vElemWrite hin, ?_⟩
    obtain ⟨hrst', hbusy', hreads'⟩ := vElemWrite_port v s
    have hback : readReg (vElemWrite v s) (regAt 0x048) = v &&& 1 := vElemRead_vElemWrite v hin
    rw [hostRead_idle 0x048 (hrst'.trans hrst) (hbusy'.trans hidle), returnRead_reads, hreads', hback]
  · rw [vElemRead_inside hin]
    rfl
  · rw [vElemWrite_outside v hout, vElemRead_outside hout]
    exact ⟨rfl, rfl⟩

/-- Settles O52: the words are those of HCODE and HWORD, and their codes are known. -/
theorem historyWindows : Obligations.HistoryWindows := by
  unfold Obligations.HistoryWindows
  intro s hrst hidle
  exact ⟨hCodeRead s, hWordRead s, hostRead_idle 0x068 hrst hidle, hostRead_idle 0x06C hrst hidle, hCodeRead_toNat s,
    fun _ hj => hWordRead_field s hj⟩

end Sys2Proof.Machine

/-! Proofs of the statements of the family 30_encoding: the encoder and the decoder are inverse to each other, the
decoder accepts exactly the words the field rules allow, and the result of the OPACC commands. -/

namespace Sys2Proof

/-! ## Rows of the table (rule R123) -/

/-- A word that selects a row has the row's fixed bits; its other bits are its own. -/
theorem Row.eq_of_selects {r : Row} {w : Word} (h : r.selects w = true) : w = r.pattern ||| (w &&& ~~~r.mask) := by
  have hfixed : w &&& r.mask = r.pattern := by simpa [Row.selects] using h
  rw [← hfixed, ← BitVec.and_or_distrib_left, BitVec.or_not_self, BitVec.and_allOnes]

/-- A word that selects two rows gives both the same bits where both masks are set. -/
theorem Row.patterns_agree {r r' : Row} {w : Word} (h : r.selects w = true) (h' : r'.selects w = true) :
    r.pattern &&& r'.mask = r'.pattern &&& r.mask := by
  have hfixed : w &&& r.mask = r.pattern := by simpa [Row.selects] using h
  have hfixed' : w &&& r'.mask = r'.pattern := by simpa [Row.selects] using h'
  rw [← hfixed, ← hfixed', BitVec.and_assoc, BitVec.and_assoc, BitVec.and_comm r.mask]

/-- Any two rows of the table differ at a bit that both masks fix. -/
theorem commandTable_patterns_differ :
    commandTable.Pairwise fun r r' => r.pattern &&& r'.mask ≠ r'.pattern &&& r.mask := by decide

/-- A command that a word decodes to is read by a row of the table that the word selects (rule R131). -/
theorem exists_row_of_decode {w : Word} {i : Instr} (h : decode w = some i) :
    ∃ r ∈ commandTable, r.selects w = true ∧ r.read w = i := by
  obtain ⟨r, hfind, hread⟩ := Option.map_eq_some_iff.1 h
  exact ⟨r, List.mem_of_find?_eq_some hfind, by simpa using List.find?_some hfind, hread⟩

/-! ## Fields of a word (rule R121) -/

/-- A field put back where it was read is the word with every bit outside the field cleared. -/
theorem field_shiftLeft (w : Word) (lo n : Nat) :
    (w.extractLsb' lo n).setWidth 32 <<< lo = w &&& (BitVec.allOnes n).setWidth 32 <<< lo := by
  ext i hi
  by_cases hlo : i < lo
  · simp [hlo]
  · simp [hi, hlo, Nat.le_of_not_lt hlo, Bool.and_comm]

theorem fieldAt_dstOf (w : Word) : fieldAt 8 (dstOf w) = w &&& 0x300 := field_shiftLeft w 8 2

theorem fieldAt_srcOf (w : Word) : fieldAt 10 (srcOf w) = w &&& 0xC00 := field_shiftLeft w 10 2

theorem fieldAt_blkOf (w : Word) : fieldAt 16 (blkOf w) = w &&& 0x30000 := field_shiftLeft w 16 2

/-- A row reads exactly the bits outside its mask: the word of the command read has the row's fixed bits and those. -/
theorem encode_read {r : Row} (h : r ∈ commandTable) (w : Word) :
    encode (r.read w) = r.pattern ||| (w &&& ~~~r.mask) := by
  have hboth : w &&& 0x300#32 ||| w &&& 0xC00#32 = w &&& 0xF00#32 := BitVec.and_or_distrib_left.symm
  revert r
  simp [commandTable, encode, fieldAt_dstOf, fieldAt_srcOf, fieldAt_blkOf, BitVec.or_assoc, hboth]

@[simp] theorem fieldAt_zero (lo : Nat) : fieldAt lo 0#2 = 0#32 := by simp [fieldAt]

/-- The word with the given fields and 0 in every reserved bit (rules R121, R128). -/
def wordOfFields (opc : BitVec 8) (dst src : VNum) (sel : BitVec 3) (blk : Quadrant) : Word :=
  opc.setWidth 32 ||| fieldAt 8 dst ||| fieldAt 10 src ||| sel.setWidth 32 <<< 12 ||| fieldAt 16 blk

/-- A word whose reserved bits are 0 is given by its five fields. -/
theorem eq_wordOfFields {w : Word} (h : reservedClear w = true) :
    w = wordOfFields (w.extractLsb' 0 8) (dstOf w) (srcOf w) (w.extractLsb' 12 3) (blkOf w) := by
  obtain ⟨h15, hhigh⟩ : w.getLsbD 15 = false ∧ w.extractLsb' 18 14 = 0 := by simpa [reservedClear] using h
  have hopc : (w.extractLsb' 0 8).setWidth 32 = w &&& 0xFF := by simpa using field_shiftLeft w 0 8
  have hsel : (w.extractLsb' 12 3).setWidth 32 <<< 12 = w &&& 0x7000 := field_shiftLeft w 12 3
  have h15' : w &&& 0x8000 = 0#32 := by
    have hbit : w.extractLsb' 15 1 = 0 := by
      ext i hi
      simpa [Nat.lt_one_iff.1 hi] using h15
    exact (field_shiftLeft w 15 1).symm.trans (by rw [hbit]; rfl)
  have hhigh' : w &&& 0xFFFC0000 = 0#32 := (field_shiftLeft w 18 14).symm.trans (by rw [hhigh]; rfl)
  rw [wordOfFields, hopc, fieldAt_dstOf, fieldAt_srcOf, hsel, fieldAt_blkOf]
  calc w = w &&& (0xFF ||| 0x300 ||| 0xC00 ||| 0x7000 ||| 0x30000 ||| 0x8000 ||| 0xFFFC0000) :=
        (BitVec.and_allOnes (x := w)).symm
    _ = _ := by simp only [BitVec.and_or_distrib_left, h15', hhigh', BitVec.or_zero]

/-- The values of SEL below the bounds that the field rules set (rules R125, R126). -/
theorem sel_bounds (sel : BitVec 3) :
    (sel.toNat = 0 ↔ sel = 0) ∧ (sel.toNat ≤ 1 ↔ sel = 0 ∨ sel = 1) ∧
      (sel.toNat ≤ 4 ↔ sel = 0 ∨ sel = 1 ∨ sel = 2 ∨ sel = 3 ∨ sel = 4) := by
  revert sel
  decide

/-! ## Commands and their words -/

/-- The word of a command decodes to the command and is as the field rules demand, for each operand's values. -/
theorem encode_spec (i : Instr) : decode (encode i) = some i ∧ wordWf (encode i) = true := by
  cases i with
  | mv d s => revert d s; decide
  | vclr d => revert d; decide
  | opaccI b => revert b; decide
  | opaccHl b => revert b; decide
  | opaccHr b => revert b; decide
  | opaccVu b => revert b; decide
  | opaccVd b => revert b; decide
  | encode s => revert s; decide
  | step s => revert s; decide
  | run s => revert s; decide
  | _ => exact ⟨rfl, rfl⟩

theorem decode_encode (i : Instr) : decode (encode i) = some i := (encode_spec i).1

theorem wordWf_encode (i : Instr) : wordWf (encode i) = true := (encode_spec i).2

/-- The row a word selects reads every bit that it does not fix, so nothing of the word is lost. -/
theorem encode_of_decode {w : Word} {i : Instr} (h : decode w = some i) : encode i = w := by
  obtain ⟨r, hmem, hsel, rfl⟩ := exists_row_of_decode h
  rw [encode_read hmem, ← Row.eq_of_selects hsel]

/-- Fields that the field rules allow are those of a command, one operation code after the other (rules R122 to
R126). -/
theorem exists_encode_eq_wordOfFields {opc : BitVec 8} {dst src : VNum} {sel : BitVec 3} {blk : Quadrant}
    (hopc : opc ∈ knownOpcodes) (hdst : opc ∈ [0x01#8, 0x02#8] ∨ dst = 0)
    (hsrc : opc ∈ [0x01#8, 0x30#8, 0x40#8, 0x41#8] ∨ src = 0)
    (hsel : if opc = 0x10#8 then sel.toNat ≤ 1 else if opc = 0x21#8 then sel.toNat ≤ 4 else sel.toNat = 0)
    (hblk : opc = 0x21#8 ∨ blk = 0) : ∃ i, encode i = wordOfFields opc dst src sel blk := by
  obtain ⟨hsel0, hsel1, hsel4⟩ := sel_bounds sel
  simp only [hsel0, hsel1, hsel4] at hsel
  simp only [knownOpcodes, List.mem_cons, List.not_mem_nil, or_false] at hopc
  rcases hopc with rfl | rfl | rfl | rfl | rfl | rfl | rfl | rfl | rfl | rfl <;> simp at hdst hsrc hsel hblk
  · subst hdst hsrc hsel hblk
    exact ⟨.nop, rfl⟩
  · subst hsel hblk
    exact ⟨.mv dst src, by simp [encode, wordOfFields]⟩
  · subst hsrc hsel hblk
    exact ⟨.vclr dst, by simp [encode, wordOfFields]⟩
  · subst hdst hsrc hblk
    rcases hsel with rfl | rfl
    · exact ⟨.shiftgenL, rfl⟩
    · exact ⟨.shiftgenR, rfl⟩
  · subst hdst hsrc hsel hblk
    exact ⟨.matclr, rfl⟩
  · subst hdst hsrc
    rcases hsel with rfl | rfl | rfl | rfl | rfl
    · exact ⟨.opaccI blk, by simp [encode, wordOfFields]⟩
    · exact ⟨.opaccHl blk, by simp [encode, wordOfFields]⟩
    · exact ⟨.opaccHr blk, by simp [encode, wordOfFields]⟩
    · exact ⟨.opaccVu blk, by simp [encode, wordOfFields]⟩
    · exact ⟨.opaccVd blk, by simp [encode, wordOfFields]⟩
  · subst hdst hsrc hsel hblk
    exact ⟨.build, rfl⟩
  · subst hdst hsel hblk
    exact ⟨.encode src, by simp [encode, wordOfFields]⟩
  · subst hdst hsel hblk
    exact ⟨.step src, by simp [encode, wordOfFields]⟩
  · subst hdst hsel hblk
    exact ⟨.run src, by simp [encode, wordOfFields]⟩

theorem exists_encode_of_wordWf {w : Word} (h : wordWf w = true) : ∃ i, encode i = w := by
  simp only [wordWf, Bool.and_eq_true] at h
  obtain ⟨⟨⟨⟨⟨hres, hopc⟩, hdst⟩, hsrc⟩, hsel⟩, hblk⟩ := h
  rw [eq_wordOfFields hres]
  apply exists_encode_eq_wordOfFields
  · simpa [opcodeKnown] using hopc
  · simpa [dstAllowed, dstOf] using hdst
  · simpa [srcAllowed, srcOf] using hsrc
  · simpa [selAllowed] using hsel
  · simpa [blkAllowed, blkOf] using hblk

end Sys2Proof

namespace Sys2Proof.Machine

open Sys2Proof

/-! ## The OPACC commands -/

/-- An accepted N is the model's grid size, and it passes the checks of SHIFTGEN, OPACC and BUILD (rule R167). -/
theorem gridChecks_of_sizeIs {s : State} {N : Nat} (h : SizeIs N s) :
    gridSize s = N ∧ firstError (gridChecks s) = none := by
  obtain ⟨hN, hlow, hcap⟩ := h
  refine ⟨by simp [gridSize, hN], firstError_eq_none.2 ?_⟩
  simp only [gridChecks, List.forall_mem_cons, checkSizeN_passes, checkCapN_passes]
  exact ⟨by omega, by omega, by simp⟩

/-- The four quadrants fit MAT where N is accepted (rules R8, R167). -/
theorem quadrants_fit {s : State} {N : Nat} (h : SizeIs N s) : 2 * (N * N) ≤ s.cfg.dmax := by
  obtain ⟨rfl, hpass⟩ := gridChecks_of_sizeIs h
  exact stateLen_le_of_gridChecks hpass

theorem checksOf_opacc (op : GridOp) (b : Quadrant) (s : State) : checksOf (opacc op b) s = gridChecks s := by
  cases op <;> rfl

theorem writtenBy_opacc (op : GridOp) (b : Quadrant) (s : State) :
    writtenBy (opacc op b) s = accumulateGrid op b s := by
  cases op <;> rfl

/-- An OPACC command with an accepted N completes with its operator added (rules R222, R227 to R231). -/
theorem exec_opacc {s : State} {N : Nat} (op : GridOp) (b : Quadrant) (h : SizeIs N s) :
    exec (opacc op b) s = .next (complete .none (accumulateGrid op b s)) := by
  have hpass : firstError (checksOf (opacc op b) s) = none := by
    rw [checksOf_opacc]
    exact (gridChecks_of_sizeIs h).2
  rw [exec_of_checks_pass hpass, writtenBy_opacc]

theorem rowOffset_eq (b : Quadrant) (K : Nat) : rowOffset b K = if b.getLsbD 1 then K else 0 := by
  have hbit : (b = 2 ∨ b = 3) ↔ b.getLsbD 1 = true := by revert b; decide
  simp only [rowOffset, hbit]

theorem colOffset_eq (b : Quadrant) (K : Nat) : colOffset b K = if b.getLsbD 0 then K else 0 := by
  have hbit : (b = 1 ∨ b = 3) ↔ b.getLsbD 0 = true := by revert b; decide
  simp only [colOffset, hbit]

/-- MAT after an OPACC command with an accepted N (rule R222). -/
theorem matBit_accumulateGrid {s : State} {N i j : Nat} (op : GridOp) (b : Quadrant) (h : SizeIs N s)
    (hj : j < s.cfg.dmax) :
    matBit (accumulateGrid op b s) i j =
      (matBit s i j ^^
        (decide (rowOffset b (N * N) ≤ i ∧ i < rowOffset b (N * N) + N * N ∧
            colOffset b (N * N) ≤ j ∧ j < colOffset b (N * N) + N * N) &&
          gridMat N op (i - rowOffset b (N * N)) (j - colOffset b (N * N)))) := by
  have hfit := (offsets_le b (N * N)).2.trans (quadrants_fit h)
  rw [accumulateGrid, cellCount, (gridChecks_of_sizeIs h).1, matBit_accumulate _ hfit hj]

/-! ## The statements -/

/-- Settles O1, command by command and operand by operand. -/
theorem decodeOfEncode : Obligations.DecodeOfEncode := by
  unfold Obligations.DecodeOfEncode
  exact fun i _ => decode_encode i

/-- Settles O2: the row that the word selects fixes its bits and reads all others. -/
theorem encodeOfDecode : Obligations.EncodeOfDecode := by
  unfold Obligations.EncodeOfDecode
  exact fun _ _ => encode_of_decode

/-- Settles O3: both sides say that the word is some command's word. -/
theorem decodesExactlyTheWellFormedWords : Obligations.DecodesExactlyTheWellFormedWords := by
  unfold Obligations.DecodesExactlyTheWellFormedWords
  intro w
  rw [Bool.eq_iff_iff, Option.isSome_iff_exists]
  constructor
  · rintro ⟨i, hdecode⟩
    rw [← encode_of_decode hdecode]
    exact wordWf_encode i
  · intro hwf
    obtain ⟨i, rfl⟩ := exists_encode_of_wordWf hwf
    exact ⟨i, decode_encode i⟩

/-- Settles O4: two rows selected by one word would agree where both fix a bit. -/
theorem noWordSelectsTwoRows : Obligations.NoWordSelectsTwoRows := by
  unfold Obligations.NoWordSelectsTwoRows
  intro w
  exact commandTable_patterns_differ.imp fun hdiffer ⟨h, h'⟩ => hdiffer (Row.patterns_agree h h')

/-- Settles O23: inside the quadrant an element is XORed with the operator's entry, which rule R221 gives; elsewhere
with 0. -/
theorem opaccResult : Obligations.OpaccResult := by
  unfold Obligations.OpaccResult
  intro s N op b hsize
  simp only [← rowOffset_eq, ← colOffset_eq]
  refine ⟨_, exec_opacc op b hsize, rfl, fun r c r' c' hr hc hr' hc' => ?_, fun i j _ hj hout => ?_⟩
  · have hp := address_lt hr hc
    have hq := address_lt hr' hc'
    have hfit := (offsets_le b (N * N)).2.trans (quadrants_fit hsize)
    refine (matBit_accumulateGrid op b hsize (by omega)).trans ?_
    rw [Nat.add_sub_cancel_left, Nat.add_sub_cancel_left, gridMat_cell op hr hc hc', decide_eq_true (by omega),
      Bool.true_and]
  · refine (matBit_accumulateGrid op b hsize hj).trans ?_
    rw [decide_eq_false hout, Bool.false_and, Bool.xor_false]

/-- Settles O5, by evaluating the encoder and the decoder on the words of rule R134. -/
theorem encodingExamples : Obligations.EncodingExamples := by
  unfold Obligations.EncodingExamples
  decide

end Sys2Proof.Machine

/-! Proofs of the statements of the family 40_common: the code a command reports, how a command is issued, performed and
completed, and what each command leaves unchanged. -/

namespace Sys2Proof.Machine

open Sys2Proof

/-! ## The result code of a command (rule R308) -/

/-- The value that a list of checks puts in ERRCODE: the code of the first that fails, 0 if none does. -/
def reportedCode (checks : List (Bool × ErrCode)) : BitVec 4 := ((firstError checks).getD .none).bits

theorem reportedCode_cons (failed : Prop) [Decidable failed] (code : ErrCode) (rest : List (Bool × ErrCode)) :
    reportedCode ((decide failed, code) :: rest) = if failed then code.bits else reportedCode rest := by
  by_cases h : failed <;> simp [reportedCode, firstError_cons, h]

/-- The row of R308's table that SHIFTGEN, OPACC and BUILD share: N too small before N too large. -/
theorem reportedCode_gridChecks (s : State) :
    reportedCode (gridChecks s) = if s.nreg.toInt ≤ 0 then 2 else if s.nreg.toInt > s.cfg.nmax then 5 else 0 := by
  simp only [gridChecks, checkSizeN, checkCapN, reportedCode_cons]
  rfl

/-- A length is odd exactly when its word's bit 0 is 1. -/
theorem toNat_odd_iff (w : Word) : w.toNat % 2 = 1 ↔ w.getLsbD 0 = true := by
  simp [BitVec.getLsbD, Nat.testBit_zero]

/-- The checks of each command report what its row of R308's table says. -/
theorem reportedCode_checksOf (i : Instr) (s : State) : reportedCode (checksOf i s) = expectedCode i s := by
  cases i with
  | nop | vclr | matclr => rfl
  | shiftgenL | shiftgenR | opaccI | opaccHl | opaccHr | opaccVu | opaccVd | build => exact reportedCode_gridChecks s
  | mv d k =>
    simp only [checksOf, checkDmax, reportedCode_cons, expectedCode, ite_or, ne_eq, BitVec.toNat_inj]
    rfl
  | encode k =>
    simp only [checksOf, checkDmax, reportedCode_cons, toNat_odd_iff]
    rfl
  | step k =>
    simp only [checksOf, checkSizeN, checkCapN, checkDims, reportedCode_cons]
    rfl
  | run k =>
    simp only [checksOf, checkSizeN, checkSizeT, checkCapN, checkCapT, checkDims, reportedCode_cons, expectedCode,
      ite_or]
    rfl

/-! ## Completion (rules R163 to R165) -/

/-- What a command has done where it answers a next state: all its writes, its checks having passed, or none. -/
theorem exec_next_cases {i : Instr} {s t : State} (h : exec i s = .next t) :
    (firstError (checksOf i s) = none ∧ t = complete .none (writtenBy i s)) ∨ ∃ code, t = complete code s := by
  obtain ⟨hpass, hexec⟩ | ⟨code, -, -, hexec⟩ := exec_cases i s
  · exact .inl ⟨hpass, Host.Outcome.next.inj (h.symm.trans hexec)⟩
  · exact .inr ⟨code, Host.Outcome.next.inj (h.symm.trans hexec)⟩

@[simp] theorem writtenBy_lastcmd (i : Instr) (s : State) : (writtenBy i s).lastcmd = s.lastcmd := by
  rw [writtenBy_untouched]

/-- Every command completes, with the code of its row of R308's table, and leaves LASTCMD. -/
theorem exec_completes (i : Instr) (s : State) :
    ∃ t, exec i s = .next t ∧ t.done = true ∧ t.busy = false ∧ t.errcode = expectedCode i s ∧
      t.lastcmd = s.lastcmd := by
  rw [← reportedCode_checksOf, reportedCode]
  obtain ⟨hpass, hexec⟩ | ⟨code, -, hfail, hexec⟩ := exec_cases i s
  · exact ⟨_, hexec, rfl, rfl, by rw [hpass]; rfl, writtenBy_lastcmd i s⟩
  · exact ⟨_, hexec, rfl, rfl, by rw [hfail]; rfl, rfl⟩

/-- The engine step of a word that is no command completes with ILLEGAL (rule R129). -/
theorem engineStep_of_decode_none {s : State} (h : decode s.pend = none) :
    engineStep s = .next (complete .illegal s) := by
  simp only [engineStep, h]

theorem engineStep_of_decode_some {s : State} {i : Instr} (h : decode s.pend = some i) : engineStep s = exec i s := by
  simp only [engineStep, h]

/-- With no command in flight the engine's turn starts none (rules R160, R321). -/
theorem engineTurn_keeps_idle {s t : State} (hidle : s.busy = false) (hturn : engineTurn s = .next t) :
    t.busy = false := by
  have hnothing : engineTurn s = .next s := by simp [engineTurn, hidle]
  obtain rfl := Host.Outcome.next.inj (hnothing.symm.trans hturn)
  exact hidle

/-- With a command in flight the engine's turn completes it, whatever its word (rules R163, R169). -/
theorem engineTurn_completes {s : State} (hrst : s.rstN = true) (hbusy : s.busy = true) :
    ∃ t, engineTurn s = .next t ∧ t.busy = false ∧ t.done = true ∧ t.lastcmd = s.lastcmd := by
  obtain ⟨hoff, -⟩ | ⟨-, -, hturn⟩ | ⟨-, i, -, hturn⟩ := engineTurn_cases s
  · simp [hrst, hbusy] at hoff
  · exact ⟨_, hturn, rfl, rfl, rfl⟩
  · obtain ⟨t, hexec, hdone, hidle, -, hlast⟩ := exec_completes i s
    exact ⟨t, hturn.trans hexec, hidle, hdone, hlast⟩

/-! ## Issue (rules R160, R161) -/

/-- CMD is at offsets 0x010 to 0x013 (rule R84). -/
theorem regAt_eq_cmd (a : Offset) : regAt a = .cmd ↔ 0x010 ≤ a.toNat ∧ a.toNat < 0x014 := by
  have h := regAt_cases (P := fun n r => r = .cmd ↔ n = 4) (by decide) (fun n hn => by simp; omega) a
  rw [h]
  omega

/-- A write of CMD while idle issues its word. -/
theorem hostWrite_cmd {s : State} {a : Offset} (v : Word) (hrst : s.rstN = true) (hbusy : s.busy = false)
    (hcmd : regAt a = .cmd) : hostWrite a v s = issueCommand v s :=
  hostWrite_register v hrst hcmd (.inl hbusy)

/-- BUSY after a register write: only CMD sets it. -/
theorem writeReg_busy (v : Word) (s : State) (r : Reg) :
    (writeReg v s r).busy = if r = .cmd then true else s.busy := by
  cases r with
  | matelem => rw [writeReg, matElemWrite_untouched]; rfl
  | matword => rw [writeReg, matWordWrite_untouched]; rfl
  | velem => rw [writeReg, vElemWrite_untouched]; rfl
  | vword => rw [writeReg, vWordWrite_untouched]; rfl
  | _ => rfl

/-- A host write that starts a command is one of CMD, out of reset. -/
theorem cmd_of_hostWrite_starts {s : State} {a : Offset} {v : Word} (hidle : s.busy = false)
    (hstart : (hostWrite a v s).busy = true) : s.rstN = true ∧ regAt a = .cmd := by
  obtain ⟨-, h⟩ | ⟨-, hbusy, -, -⟩ | ⟨hrst, -, h⟩ := hostWrite_cases a v s
  · simp [h, hidle] at hstart
  · simp [hidle] at hbusy
  · refine ⟨hrst, ?_⟩
    by_contra hne
    rw [h, writeReg_busy, if_neg hne, hidle] at hstart
    exact Bool.false_ne_true hstart

/-- A host read changes no register and no memory (rules R90, R101). -/
theorem hostRead_untouched (a : Offset) (s : State) :
    hostRead a s = { s with reads := (hostRead a s).reads, draws := (hostRead a s).draws } := by
  obtain ⟨-, h⟩ | ⟨-, -, -, h⟩ | ⟨-, -, h⟩ := hostRead_cases a s <;> rw [h] <;> rfl

@[simp] theorem hostRead_busy (a : Offset) (s : State) : (hostRead a s).busy = s.busy := by
  rw [hostRead_untouched]

/-- While a command runs a host write reaches CTRL, STATUS and OVR alone (rule R91). -/
theorem hostWrite_untouched_busy {s : State} (a : Offset) (v : Word) (hbusy : s.busy = true) :
    hostWrite a v s =
      { s with
        ie := (hostWrite a v s).ie, done := (hostWrite a v s).done
        ovr := (hostWrite a v s).ovr, range := (hostWrite a v s).range } := by
  obtain ⟨-, h⟩ | ⟨-, -, -, h⟩ | ⟨-, hidle | hreg, h⟩ := hostWrite_cases a v s
  · rw [h]
  · rw [h]
  · simp [hbusy] at hidle
  · rw [h]
    generalize regAt a = r at hreg
    cases r with
    | ctrl | status => rfl
    | _ => exact nomatch hreg

/-! ## Steps with a command in flight (rule R169) -/

theorem step_of_inputs_nil {s : State} (h : s.inputs = []) : step s = engineTurn s := by
  simp only [step, h]

theorem step_of_inputs_cons {s : State} {e : Event} {rest : List Event} (h : s.inputs = e :: rest) :
    step s = deliver e { s with inputs := rest } := by
  simp only [step, h]

/-- A step that is a write of CMD while idle issues its word. -/
theorem step_issues {s : State} {a : Offset} {v : Word} {rest : List Event} (hrst : s.rstN = true)
    (hidle : s.busy = false) (hinputs : s.inputs = .write a v :: rest) (hcmd : regAt a = .cmd) :
    step s = .next (issueCommand v { s with inputs := rest }) := by
  rw [step_of_inputs_cons hinputs]
  exact congrArg Host.Outcome.next (hostWrite_cmd (s := { s with inputs := rest }) v hrst hidle hcmd)

/-- While idle, driving rst_n starts no command (rule R340). -/
theorem driveReset_idle {s : State} (level : Bool) (hidle : s.busy = false) : (driveReset level s).busy = false := by
  cases level
  · rfl
  · exact hidle

/-- A step from an idle block leaves it idle, or is a host write. -/
theorem step_idle_cases {s t : State} (hstep : step s = .next t) (hidle : s.busy = false) :
    t.busy = false ∨ ∃ a v rest, s.inputs = .write a v :: rest ∧ t = hostWrite a v { s with inputs := rest } := by
  obtain ⟨-, h⟩ | ⟨rest, ⟨a, -, h⟩ | ⟨a, v, hinputs, h⟩ | ⟨-, h⟩ | ⟨level, -, h⟩⟩ := step_cases s
  · exact .inl (engineTurn_keeps_idle hidle (h.symm.trans hstep))
  · obtain rfl := Host.Outcome.next.inj (h.symm.trans hstep)
    exact .inl ((hostRead_busy a _).trans hidle)
  · exact .inr ⟨a, v, rest, hinputs, Host.Outcome.next.inj (hstep.symm.trans h)⟩
  · exact .inl (engineTurn_keeps_idle (s := { s with inputs := rest }) hidle (h.symm.trans hstep))
  · obtain rfl := Host.Outcome.next.inj (h.symm.trans hstep)
    exact .inl (driveReset_idle level hidle)

/-- An input that is neither the engine's turn nor a reset leaves a command in flight. -/
theorem deliver_keeps_inFlight {s : State} {e : Event} (hrst : s.rstN = true) (hbusy : s.busy = true)
    (hengine : e ≠ .engine) (hreset : e ≠ .reset false) :
    ∃ t, deliver e s = .next t ∧ t.rstN = true ∧ t.busy = true ∧ t.inputs = s.inputs ∧ t.lastcmd = s.lastcmd := by
  cases e with
  | read a => exact ⟨_, rfl, by rw [hostRead_untouched]; exact ⟨hrst, hbusy, rfl, rfl⟩⟩
  | write a v => exact ⟨_, rfl, by rw [hostWrite_untouched_busy a v hbusy]; exact ⟨hrst, hbusy, rfl, rfl⟩⟩
  | engine => exact absurd rfl hengine
  | reset level =>
    cases level
    · exact absurd rfl hreset
    · exact ⟨_, rfl, rfl, hbusy, rfl, rfl⟩

theorem core_run_succ {s t : State} (k : Nat) (h : step s = .next t) : core.run (k + 1) s = core.run k t := by
  have hstep : core.step s = .next t := h
  simp only [Host.Core.run, hstep]

theorem core_run_one {s t : State} (h : step s = .next t) : core.run 1 s = .next t := core_run_succ 0 h

/-! ## Rows of HIST that are not written -/

theorem writeCodes_zero_getElem? {M r : Nat} {S : List Bool} {rows : List (Memory Code)} (hr : r ≠ 0) :
    (writeCodes 0 M S rows)[r]? = rows[r]? := by
  rw [writeCodes_getElem?, if_neg fun h => hr h.1]

/-- RUN leaves the rows above T (rule R274). -/
theorem runLoop_getElem?_above {D K T r : Nat} {M : GfMat} {S : List Bool} {rows : List (Memory Code)} (hr : T < r) :
    (runLoop D K M T 1 S (writeCodes 0 K S rows)).2[r]? = rows[r]? := by
  rw [runLoop_getElem?, if_neg (by omega), writeCodes_zero_getElem? (by omega)]

theorem runLoop_writeCodes_length (D K n : Nat) (M : GfMat) (S : List Bool) (rows : List (Memory Code)) :
    (runLoop D K M n 1 S (writeCodes 0 K S rows)).2.length = rows.length := by
  rw [runLoop_length, writeCodes_length]

/-! ## Registers and elements that are not written -/

theorem Quad.get_set_of_ne {α : Type} (q : Quad α) {j k : VNum} (x : α) (h : k ≠ j) : (q.set j x).get k = q.get k := by
  rw [Quad.get_set, if_neg h]

/-- The checks of SHIFTGEN, OPACC and BUILD pass only for an accepted N (rule R167). -/
theorem sizeIs_of_gridChecks {s : State} (h : firstError (gridChecks s) = none) : SizeIs (gridSize s) s := by
  simp only [firstError_eq_none, gridChecks, List.forall_mem_cons, checkSizeN_passes, checkCapN_passes] at h
  obtain ⟨hlow, hcap, -⟩ := h
  obtain ⟨hN, hpos, hle, -, -⟩ := sizes_of_checks hlow hcap
  exact ⟨hN.symm, hpos, hle⟩

/-! ## The statements -/

/-- Settles O8: offset 0x010 is CMD's. -/
theorem issueCommandEffect : Obligations.IssueCommandEffect := by
  unfold Obligations.IssueCommandEffect
  intro s v hrst hidle
  exact hostWrite_cmd v hrst hidle rfl

/-- Settles O9: the write issues the word, which decodes to the command it encodes. -/
theorem issuedCommandIsPerformed : Obligations.IssuedCommandIsPerformed := by
  unfold Obligations.IssuedCommandIsPerformed
  intro s i rest hrst hidle hinputs
  refine ⟨_, step_issues hrst hidle hinputs rfl, rfl, rfl, rfl, ?_⟩
  rw [step_of_inputs_cons rfl]
  exact engineTurn_of_decode hrst rfl (decode_encode i)

/-- Settles O10: a command whose checks pass reports 0, and one that raises an error writes nothing. -/
theorem raisedCommandsChangeNoData : Obligations.RaisedCommandsChangeNoData := by
  unfold Obligations.RaisedCommandsChangeNoData
  intro i s t hexec herr
  obtain ⟨-, rfl⟩ | ⟨code, rfl⟩ := exec_next_cases hexec
  · exact absurd rfl herr
  · rfl

/-- Settles O11: the checks of each command are its row of the table, and a word that decodes to none is ILLEGAL before
any check is made. -/
theorem errorPriority : Obligations.ErrorPriority := by
  unfold Obligations.ErrorPriority
  have hexec : ∀ (i : Instr) (s : State), ∃ t, exec i s = .next t ∧ t.done = true ∧ t.busy = false ∧
      t.errcode = expectedCode i s := fun i s => by
    obtain ⟨t, hexec, hdone, hidle, hcode, -⟩ := exec_completes i s
    exact ⟨t, hexec, hdone, hidle, hcode⟩
  refine ⟨hexec, fun s => ?_⟩
  cases hdecode : decode s.pend with
  | none => exact ⟨_, engineStep_of_decode_none hdecode, rfl, rfl, rfl⟩
  | some i =>
    rw [engineStep_of_decode_some hdecode]
    exact hexec i s

/-- Settles O13, by induction on the inputs left: each but the engine's turn leaves the command in flight, and the
engine's turn, which comes at the latest when no input is left, completes it. -/
theorem everyIssuedCommandCompletes : Obligations.EveryIssuedCommandCompletes := by
  unfold Obligations.EveryIssuedCommandCompletes
  intro s hrst hbusy hreset
  induction hinputs : s.inputs generalizing s with
  | nil =>
    obtain ⟨t, hturn, hdone⟩ := engineTurn_completes hrst hbusy
    exact ⟨1, by simp, t, core_run_one ((step_of_inputs_nil hinputs).trans hturn), hdone⟩
  | cons e rest ih =>
    rw [hinputs, List.forall_mem_cons] at hreset
    obtain ⟨hreset, hrest⟩ := hreset
    have hstep := step_of_inputs_cons hinputs
    by_cases hengine : e = .engine
    · subst hengine
      obtain ⟨t, hturn, hdone⟩ := engineTurn_completes (s := { s with inputs := rest }) hrst hbusy
      exact ⟨1, by simp, t, core_run_one (hstep.trans hturn), hdone⟩
    · obtain ⟨t, hdeliver, hrst', hbusy', hinputs', hlast⟩ :=
        deliver_keeps_inFlight (s := { s with inputs := rest }) hrst hbusy hengine hreset
      obtain ⟨k, hk, u, hrun, hidle, hdone, hlast'⟩ := ih t hrst' hbusy' (hinputs' ▸ hrest) hinputs'
      exact ⟨k + 1, Nat.succ_le_succ hk, u, (core_run_succ k (hstep.trans hdeliver)).trans hrun, hidle, hdone,
        hlast'.trans hlast⟩

/-- Settles O14: of all that a step can do, only a host write can set BUSY, and of the writes only one of CMD. -/
theorem onlyACmdWriteStartsACommand : Obligations.OnlyACmdWriteStartsACommand := by
  unfold Obligations.OnlyACmdWriteStartsACommand
  constructor
  · intro s a v rest hrst hidle hinputs hlow hhigh
    exact ⟨_, step_issues hrst hidle hinputs ((regAt_eq_cmd a).2 ⟨hlow, hhigh⟩), rfl, rfl, rfl⟩
  · intro s t hstep hidle hstart
    obtain hstays | ⟨a, v, rest, hinputs, rfl⟩ := step_idle_cases hstep hidle
    · exact absurd (hstays.symm.trans hstart) Bool.false_ne_true
    obtain ⟨hrst, hcmd⟩ := cmd_of_hostWrite_starts (s := { s with inputs := rest }) hidle hstart
    obtain ⟨hlow, hhigh⟩ := (regAt_eq_cmd a).1 hcmd
    rw [hostWrite_cmd (s := { s with inputs := rest }) v hrst hidle hcmd]
    exact ⟨hrst, a, v, rest, hinputs, hlow, hhigh, rfl, rfl⟩

/-- Settles O16: NOP has no checks and no writes. -/
theorem nopEffect : Obligations.NopEffect := by
  unfold Obligations.NopEffect
  intro s
  exact exec_eq_attempt .nop s

/-- Settles O19: MV writes its destination and that register's length, VCLR its destination; with an error, neither
writes anything. -/
theorem vectorCommandsFrame : Obligations.VectorCommandsFrame := by
  unfold Obligations.VectorCommandsFrame
  intro s t d k
  constructor
  · intro hexec
    obtain ⟨-, rfl⟩ | ⟨code, rfl⟩ := exec_next_cases hexec
    · exact ⟨rfl, fun _ => Quad.get_set_of_ne _ _, fun _ => Quad.get_set_of_ne _ _⟩
    · exact ⟨rfl, fun _ _ => rfl, fun _ _ => rfl⟩
  · intro hexec
    obtain ⟨-, rfl⟩ | ⟨code, rfl⟩ := exec_next_cases hexec
    · exact ⟨rfl, fun _ => Quad.get_set_of_ne _ _⟩
    · exact ⟨rfl, fun _ _ => rfl⟩

/-- Settles O25: the writes of each command, and for OPACC that an element outside the quadrant is XORed with 0. -/
theorem matrixCommandsFrame : Obligations.MatrixCommandsFrame := by
  unfold Obligations.MatrixCommandsFrame
  intro s t
  refine ⟨fun i hi hexec => ?_, fun hexec => ?_, fun op b hexec => ?_⟩
  · obtain ⟨-, rfl⟩ | ⟨code, rfl⟩ := exec_next_cases hexec
    · obtain rfl | rfl | rfl := hi <;> rfl
    · rfl
  · obtain ⟨-, rfl⟩ | ⟨code, rfl⟩ := exec_next_cases hexec <;> rfl
  · obtain ⟨hpass, rfl⟩ | ⟨code, rfl⟩ := exec_next_cases hexec
    · rw [checksOf_opacc] at hpass
      rw [writtenBy_opacc]
      refine ⟨rfl, fun i j _ hj hout => ?_⟩
      refine (matBit_accumulateGrid op b (sizeIs_of_gridChecks hpass) hj).trans ?_
      rw [← cellCount, decide_eq_false hout, Bool.false_and, Bool.xor_false]
    · exact ⟨rfl, fun _ _ _ _ _ => rfl⟩

/-- Settles O36: ENCODE and STEP write row 0 alone, RUN the rows up to T, and STEP and RUN their own vector register. -/
theorem historyCommandsFrame : Obligations.HistoryCommandsFrame := by
  unfold Obligations.HistoryCommandsFrame
  intro s t k
  refine ⟨fun hexec => ?_, fun hexec => ?_, fun hexec => ?_⟩
  · obtain ⟨-, rfl⟩ | ⟨code, rfl⟩ := exec_next_cases hexec
    · exact ⟨rfl, writeCodes_length .., fun _ => writeCodes_zero_getElem?⟩
    · exact ⟨rfl, rfl, fun _ _ => rfl⟩
  · obtain ⟨-, rfl⟩ | ⟨code, rfl⟩ := exec_next_cases hexec
    · exact ⟨rfl, fun _ => Quad.get_set_of_ne _ _, writeCodes_length .., fun _ => writeCodes_zero_getElem?⟩
    · exact ⟨rfl, fun _ _ => rfl, rfl, fun _ _ => rfl⟩
  · obtain ⟨-, rfl⟩ | ⟨code, rfl⟩ := exec_next_cases hexec
    · exact ⟨rfl, fun _ => Quad.get_set_of_ne _ _, runLoop_writeCodes_length .., fun _ => runLoop_getElem?_above⟩
    · exact ⟨rfl, fun _ _ => rfl, rfl, fun _ _ => rfl⟩

end Sys2Proof.Machine

/-! Proof of the statement of the family 41_mv about VCLR. -/

namespace Sys2Proof.Machine

open Sys2Proof

/-- Settles O18: VCLR has no checks, and the register it writes holds the empty list, whose every bit is 0. -/
theorem vclrResult : Obligations.VclrResult := by
  unfold Obligations.VclrResult
  intro s d
  refine ⟨_, exec_of_checks_pass rfl, rfl, fun i => ?_, fun _ => Quad.get_set_of_ne _ _⟩
  calc vregBit (setVreg d [] s) d i
      = listBit [] i := by rw [vregBit_setVreg, if_pos rfl]
    _ = false := rfl

end Sys2Proof.Machine

/-! Proofs of the statements of the family 42_shiftgen: L and R as permutation matrices, and what SHIFTGEN leaves in
MAT. -/

namespace Sys2Proof.Machine

open Sys2Proof

/-! ## Permutation matrices -/

/-- In each row i of the N×N corner of M the one 1 is at column σ i, where τ inverts σ on the indices below N. -/
structure PermutationMat (N : Nat) (M : GfMat) (σ τ : Nat → Nat) : Prop where
  entry : ∀ i < N, ∀ j, M i j = (j == σ i)
  maps : ∀ i < N, σ i < N
  maps_inv : ∀ j < N, τ j < N
  left_inv : ∀ i < N, τ (σ i) = i
  right_inv : ∀ j < N, σ (τ j) = j

namespace PermutationMat

variable {N : Nat} {M : GfMat} {σ τ : Nat → Nat}

/-- Multiplying by a permutation matrix on the left moves rows. -/
theorem product (h : PermutationMat N M σ τ) (P : GfMat) {i : Nat} (hi : i < N) (k : Nat) :
    xorSum N (fun j => M i j && P j k) = P (σ i) k := by
  calc xorSum N (fun j => M i j && P j k)
      = xorSum N (fun j => (j == σ i) && P j k) := xorSum_congr fun j _ => by rw [h.entry i hi j]
    _ = P (σ i) k := by rw [xorSum_single, decide_eq_true (h.maps i hi), Bool.true_and]

/-- Permutation matrices of inverse permutations are inverse matrices. -/
theorem product_inverse {P : GfMat} (h : PermutationMat N M σ τ) (hP : PermutationMat N P τ σ) {i : Nat} (hi : i < N)
    (k : Nat) : xorSum N (fun j => M i j && P j k) = (i == k) := by
  rw [h.product P hi, hP.entry _ (h.maps i hi), h.left_inv i hi, BEq.comm]

theorem existsUnique_in_row (h : PermutationMat N M σ τ) {i : Nat} (hi : i < N) : ∃! j, j < N ∧ M i j = true := by
  simp only [h.entry i hi, beq_iff_eq]
  exact ⟨σ i, ⟨h.maps i hi, rfl⟩, fun _ hj => hj.2⟩

theorem existsUnique_in_column (h : PermutationMat N M σ τ) {j : Nat} (hj : j < N) :
    ∃! i, i < N ∧ M i j = true := by
  refine ⟨τ j, ⟨h.maps_inv j hj, ?_⟩, fun i ⟨hi, hone⟩ => ?_⟩
  · rw [h.entry _ (h.maps_inv j hj), h.right_inv j hj, beq_self_eq_true]
  · rw [h.entry i hi, beq_iff_eq] at hone
    rw [hone, h.left_inv i hi]

/-- A permutation matrix that moves row i is not its own square, as σ moves σ i too. -/
theorem not_idempotent (h : PermutationMat N M σ τ) {i : Nat} (hi : i < N) (hmoved : σ i ≠ i) :
    ∃ i < N, ∃ k < N, xorSum N (fun j => M i j && M j k) ≠ M i k := by
  refine ⟨i, hi, σ i, h.maps i hi, fun heq => hmoved ?_⟩
  rw [h.product M hi, h.entry _ (h.maps i hi), h.entry i hi, beq_self_eq_true, beq_iff_eq] at heq
  calc σ i = τ (σ (σ i)) := (h.left_inv _ (h.maps i hi)).symm
    _ = i := by rw [← heq, h.left_inv i hi]

end PermutationMat

/-! ## The cyclic shifts -/

/-- The cyclic predecessor of an index, the column of the 1 in its row of L (rule R200). -/
def indexBefore (N i : Nat) : Nat := cyclic ((i : Int) - 1) N

/-- The cyclic successor of an index, the column of the 1 in its row of R (rule R200). -/
def indexAfter (N i : Nat) : Nat := cyclic ((i : Int) + 1) N

theorem indexBefore_lt {N i : Nat} (hi : i < N) : indexBefore N i < N := cyclic_lt _ (by omega)

theorem indexAfter_lt {N i : Nat} (hi : i < N) : indexAfter N i < N := cyclic_lt _ (by omega)

theorem indexAfter_indexBefore {N i : Nat} (hi : i < N) : indexAfter N (indexBefore N i) = i := by
  rw [indexAfter, cyclic_succ (indexBefore_lt hi), indexBefore, cyclic_pred hi]
  split <;> split <;> omega

theorem indexBefore_indexAfter {N i : Nat} (hi : i < N) : indexBefore N (indexAfter N i) = i := by
  rw [indexBefore, cyclic_pred (indexAfter_lt hi), indexAfter, cyclic_succ hi]
  split <;> split <;> omega

theorem shiftLeft_permutationMat (N : Nat) : PermutationMat N (shiftLeft N) (indexBefore N) (indexAfter N) where
  entry _ _ _ := rfl
  maps _ := indexBefore_lt
  maps_inv _ := indexAfter_lt
  left_inv _ := indexAfter_indexBefore
  right_inv _ := indexBefore_indexAfter

theorem shiftRight_permutationMat (N : Nat) : PermutationMat N (shiftRight N) (indexAfter N) (indexBefore N) where
  entry _ _ _ := rfl
  maps _ := indexAfter_lt
  maps_inv _ := indexBefore_lt
  left_inv _ := indexBefore_indexAfter
  right_inv _ := indexAfter_indexBefore

theorem indexBefore_zero {N : Nat} (h : 1 ≤ N) : indexBefore N 0 = N - 1 := cyclic_pred h

theorem indexAfter_zero {N : Nat} (h : 2 ≤ N) : indexAfter N 0 = 1 :=
  (cyclic_succ (by omega)).trans (if_neg (by omega))

/-- From N = 3 on, row 0 of R has its 1 at column 1, and row 0 of L at column N − 1. -/
theorem shiftLeft_ne_shiftRight {N : Nat} (h : 3 ≤ N) : shiftLeft N 0 1 ≠ shiftRight N 0 1 := by
  have hleft : shiftLeft N 0 1 = (1 == N - 1) := congrArg (1 == ·) (indexBefore_zero (by omega))
  have hright : shiftRight N 0 1 = (1 == 1) := congrArg (1 == ·) (indexAfter_zero (by omega))
  rw [hleft, hright, beq_self_eq_true, ne_eq, beq_iff_eq]
  omega

/-! ## What SHIFTGEN writes -/

/-- With an accepted N, a command that makes the grid checks and loads an N×N matrix with one 1 in each row, at column
σ i of row i, completes with it in the corner of MAT, 0 elsewhere, and MROWS = MCOLS = N. -/
theorem exec_loads_rows {i : Instr} {s : State} {N : Nat} {M : GfMat} {σ : Nat → Nat} (hsize : SizeIs N s)
    (hchecks : checksOf i s = gridChecks s) (hwrites : writtenBy i s = setDims N N (loadMat N M s))
    (hrow : ∀ a < N, ∀ b, M a b = (b == σ a)) (hmaps : ∀ a < N, σ a < N) :
    ∃ t, exec i s = .next t ∧
      t = { s with mat := t.mat, mrows := s.nreg, mcols := s.nreg, errcode := 0, done := true, busy := false } ∧
      ∀ a b, a < s.cfg.dmax → b < s.cfg.dmax → matBit t a b = decide (a < N ∧ b = σ a) := by
  have hpass : firstError (checksOf i s) = none := hchecks ▸ (gridChecks_of_sizeIs hsize).2
  have hdims : writtenBy i s = { loadMat N M s with mrows := s.nreg, mcols := s.nreg } := by
    rw [hwrites, setDims, ofNat_of_toInt hsize.1]
  refine ⟨_, exec_of_checks_pass hpass, ?_, fun a b _ hb => ?_⟩
  · rw [hdims]
    rfl
  · have hfit : N ≤ s.cfg.dmax := (gridChecks_of_sizeIs hsize).1 ▸ gridSize_le_dmax (gridSize_le (by omega))
    calc matBit (complete .none (writtenBy i s)) a b
        = matBit (loadMat N M s) a b := by rw [hwrites]; rfl
      _ = (decide (a < N) && decide (b < N) && M a b) := matBit_loadMat M hfit hb
      _ = decide (a < N ∧ b = σ a) := by
        by_cases ha : a < N
        · have hσ := hmaps a ha
          rw [hrow a ha, Bool.eq_iff_iff]
          simp only [Bool.and_eq_true, decide_eq_true_eq, beq_iff_eq]
          omega
        · simp [ha]

/-! ## The statements -/

/-- Settles O20: both commands make the grid checks and load the matrix whose rows rule R200 gives. -/
theorem shiftgenResults : Obligations.ShiftgenResults := by
  unfold Obligations.ShiftgenResults
  intro s N hsize
  obtain ⟨rfl, -⟩ := gridChecks_of_sizeIs hsize
  have hmaps (a : Nat) {i : Nat} (hi : i < gridSize s) : a % gridSize s < gridSize s := Nat.mod_lt _ (by omega)
  exact ⟨exec_loads_rows hsize rfl rfl (fun _ hi b => shiftLeft_entry b hi) fun _ => hmaps _,
    exec_loads_rows hsize rfl rfl (fun _ hi b => shiftRight_entry b hi) fun _ => hmaps _⟩

/-- Settles O21: L and R are the permutation matrices of the cyclic predecessor and successor, which invert each other
and from N = 2 on move index 0. -/
theorem shiftsAreInversePermutations : Obligations.ShiftsAreInversePermutations := by
  unfold Obligations.ShiftsAreInversePermutations
  intro N hN
  have hL := shiftLeft_permutationMat N
  have hR := shiftRight_permutationMat N
  refine ⟨fun i hi k _ => ⟨hL.product_inverse hR hi k, hR.product_inverse hL hi k⟩,
    fun i hi => ⟨hL.existsUnique_in_row hi, hR.existsUnique_in_row hi⟩,
    fun j hj => ⟨hL.existsUnique_in_column hj, hR.existsUnique_in_column hj⟩, ?_, ?_, fun h3 => ?_, fun h2 => ⟨?_, ?_⟩⟩
  · rintro rfl
    decide
  · rintro rfl
    decide
  · exact ⟨0, hN, 1, by omega, shiftLeft_ne_shiftRight h3⟩
  · exact hL.not_idempotent hN (by rw [indexBefore_zero hN]; omega)
  · exact hR.not_idempotent hN (by rw [indexAfter_zero h2]; omega)

end Sys2Proof.Machine

/-! Proofs of the statements of the family 43_builder: the entries of A and T, what MATCLR, OPACC and BUILD leave in
MAT, that BUILD is an accumulation, and the update rule of the built operator. -/

namespace Sys2Proof.Machine

open Sys2Proof

/-! ## XOR over a list -/

/-- The XOR of a list of bits; an empty XOR is 0. -/
def xorAll (l : List Bool) : Bool := l.foldr xor false

@[simp] theorem xorAll_nil : xorAll [] = false := rfl

@[simp] theorem xorAll_cons (b : Bool) (l : List Bool) : xorAll (b :: l) = (b ^^ xorAll l) := rfl

/-- The order does not matter: XOR is commutative. -/
theorem xorAll_perm {l l' : List Bool} (h : l.Perm l') : xorAll l = xorAll l' :=
  h.foldr_eq (lcomm := ⟨Bool.xor_left_comm⟩) false

/-- A sum of five with its last term put first. -/
theorem xor_eq_xorAll (a b c d e : Bool) : (a ^^ b ^^ c ^^ d ^^ e) = xorAll [e, a, b, c, d] := by
  simp only [xorAll_cons, xorAll_nil, Bool.xor_false, Bool.xor_comm _ e, Bool.xor_assoc]

/-- Comparing `x` with distinct things gives a 1 at most once, so the 1s do not cancel. -/
theorem xorAll_map_beq {α : Type} [BEq α] [LawfulBEq α] {l : List α} (h : l.Nodup) (x : α) :
    xorAll (l.map (x == ·)) = l.contains x := by
  induction l with
  | nil => rfl
  | cons a t ih =>
    obtain ⟨hnot, ht⟩ := List.nodup_cons.1 h
    rw [List.map_cons, xorAll_cons, ih ht, List.contains_cons]
    cases hx : x == a with
    | false => rw [Bool.false_xor, Bool.false_or]
    | true => simp [eq_of_beq hx, hnot]

/-! ## Products (rules R14, R18) -/

theorem mulVec_addMat (n : Nat) (P Q : GfMat) (v : GfVec) (i : Nat) :
    mulVec n (addMat P Q) v i = (mulVec n P v i ^^ mulVec n Q v i) :=
  (xorSum_congr fun j _ => Bool.and_xor_distrib_right (P i j) (Q i j) (v j)).trans (xorSum_xor n _ _)

/-- A row whose one 1 is at column q picks the vector's element q. -/
theorem mulVec_of_row {n i q : Nat} {M : GfMat} (v : GfVec) (hq : q < n) (hrow : ∀ j < n, M i j = (j == q)) :
    mulVec n M v i = v q := by
  calc mulVec n M v i
      = xorSum n (fun j => (j == q) && v j) := xorSum_congr fun j hj => by rw [hrow j hj]
    _ = v q := by rw [xorSum_single, decide_eq_true hq, Bool.true_and]

theorem mulVec_identityMat {n i : Nat} (v : GfVec) (hi : i < n) : mulVec n identityMat v i = v i :=
  mulVec_of_row v hi fun _ _ => BEq.comm

theorem mulVec_zeroMat (n : Nat) (v : GfVec) (i : Nat) : mulVec n zeroMat v i = false := xorSum_false n

/-- A matrix times a unit vector is its column. -/
theorem mulVec_unit {n q : Nat} (M : GfMat) (hq : q < n) (i : Nat) : mulVec n M (· == q) i = M i q := by
  calc mulVec n M (· == q) i
      = xorSum n (fun j => (j == q) && M i j) := xorSum_congr fun _ _ => Bool.and_comm _ _
    _ = M i q := by rw [xorSum_single, decide_eq_true hq, Bool.true_and]

/-! ## Block matrices (rule R20) -/

section Blocks

variable {k p q : Nat} (P Q S U : GfMat)

theorem blockMat_upper_left (hp : p < k) (hq : q < k) : blockMat k P Q S U p q = P p q := by
  simp [blockMat, hp, hq]

theorem blockMat_upper_right (hp : p < k) (q : Nat) : blockMat k P Q S U p (k + q) = Q p q := by
  simp [blockMat, hp]

theorem blockMat_lower_left (p : Nat) (hq : q < k) : blockMat k P Q S U (k + p) q = S p q := by
  simp [blockMat, hq]

theorem blockMat_lower_right (p q : Nat) : blockMat k P Q S U (k + p) (k + q) = U p q := by
  simp [blockMat]

/-- The upper part of a product with a block matrix. -/
theorem mulVec_blockMat_upper (v : GfVec) (hp : p < k) :
    mulVec (2 * k) (blockMat k P Q S U) v p = (mulVec k P v p ^^ mulVec k Q (fun j => v (k + j)) p) := by
  rw [Nat.two_mul, mulVec, xorSum_add]
  congr 1
  · exact xorSum_congr fun j hj => by rw [blockMat_upper_left P Q S U hp hj]
  · exact xorSum_congr fun j _ => by rw [blockMat_upper_right P Q S U hp j]

/-- The lower part of a product with a block matrix. -/
theorem mulVec_blockMat_lower (v : GfVec) (p : Nat) :
    mulVec (2 * k) (blockMat k P Q S U) v (k + p) = (mulVec k S v p ^^ mulVec k U (fun j => v (k + j)) p) := by
  rw [Nat.two_mul, mulVec, xorSum_add]
  congr 1
  · exact xorSum_congr fun j hj => by rw [blockMat_lower_left P Q S U p hj]
  · exact xorSum_congr fun j _ => by rw [blockMat_lower_right P Q S U p j]

end Blocks

/-! ## T and its inverse (rules R226, R235, R236) -/

section Evolution

variable {N p : Nat} (v : GfVec)

/-- The X-part of `T·[x; z]` is `A·x + z`. -/
theorem mulVec_evolutionMat_upper (hp : p < N * N) :
    mulVec (2 * (N * N)) (evolutionMat N) v p = (mulVec (N * N) (plusMat N) v p ^^ v (N * N + p)) := by
  rw [evolutionMat, mulVec_blockMat_upper _ _ _ _ v hp, mulVec_identityMat _ hp]

/-- The Z-part of `T·[x; z]` is `x`. -/
theorem mulVec_evolutionMat_lower (hp : p < N * N) :
    mulVec (2 * (N * N)) (evolutionMat N) v (N * N + p) = v p := by
  rw [evolutionMat, mulVec_blockMat_lower, mulVec_identityMat _ hp, mulVec_zeroMat, Bool.xor_false]

/-- The matrix `[[0, I],[I, A]]` that undoes T (rule R236). -/
def reverseMat (N : Nat) : GfMat := blockMat (N * N) zeroMat identityMat identityMat (plusMat N)

theorem mulVec_reverseMat_upper (hp : p < N * N) :
    mulVec (2 * (N * N)) (reverseMat N) v p = v (N * N + p) := by
  rw [reverseMat, mulVec_blockMat_upper _ _ _ _ v hp, mulVec_zeroMat, mulVec_identityMat _ hp, Bool.false_xor]

theorem mulVec_reverseMat_lower (hp : p < N * N) :
    mulVec (2 * (N * N)) (reverseMat N) v (N * N + p) =
      (v p ^^ mulVec (N * N) (plusMat N) (fun j => v (N * N + j)) p) := by
  rw [reverseMat, mulVec_blockMat_lower, mulVec_identityMat _ hp]

end Evolution

/-- An element of a vector of length 2K is in its upper or its lower half. -/
theorem forall_lt_two_mul {K : Nat} {P : Nat → Prop} (upper : ∀ p < K, P p) (lower : ∀ p < K, P (K + p)) :
    ∀ i < 2 * K, P i := by
  intro i hi
  by_cases h : i < K
  · exact upper i h
  · have := lower (i - K) (by omega)
    rwa [Nat.add_sub_cancel' (Nat.le_of_not_lt h)] at this

/-- T undoes its inverse: `A·z + (x + A·z) = x`. -/
theorem evolutionMat_reverseMat (N : Nat) (v : GfVec) :
    ∀ i < 2 * (N * N), mulVec (2 * (N * N)) (evolutionMat N) (mulVec (2 * (N * N)) (reverseMat N) v) i = v i := by
  apply forall_lt_two_mul
  · intro p hp
    have hA : mulVec (N * N) (plusMat N) (mulVec (2 * (N * N)) (reverseMat N) v) p =
        mulVec (N * N) (plusMat N) (fun j => v (N * N + j)) p :=
      mulVec_congr (fun _ _ => rfl) fun j hj => mulVec_reverseMat_upper v hj
    rw [mulVec_evolutionMat_upper _ hp, hA, mulVec_reverseMat_lower v hp, Bool.xor_comm, Bool.xor_assoc, Bool.xor_self,
      Bool.xor_false]
  · intro p hp
    rw [mulVec_evolutionMat_lower _ hp, mulVec_reverseMat_upper v hp]

/-- The inverse undoes T: `(A·x + z) + A·x = z`. -/
theorem reverseMat_evolutionMat (N : Nat) (v : GfVec) :
    ∀ i < 2 * (N * N), mulVec (2 * (N * N)) (reverseMat N) (mulVec (2 * (N * N)) (evolutionMat N) v) i = v i := by
  apply forall_lt_two_mul
  · intro p hp
    rw [mulVec_reverseMat_upper _ hp, mulVec_evolutionMat_lower v hp]
  · intro p hp
    have hA : mulVec (N * N) (plusMat N) (fun j => mulVec (2 * (N * N)) (evolutionMat N) v (N * N + j)) p =
        mulVec (N * N) (plusMat N) v p :=
      mulVec_congr (fun _ _ => rfl) fun j hj => mulVec_evolutionMat_lower v hj
    rw [mulVec_reverseMat_lower _ hp, hA, mulVec_evolutionMat_upper v hp, Bool.xor_comm, ← Bool.xor_assoc,
      Bool.xor_self, Bool.false_xor]

/-- Where P undoes Q on every vector, the product of P and Q is the identity. -/
theorem product_of_undoes {n : Nat} {P Q : GfMat} (h : ∀ v, ∀ i < n, mulVec n P (mulVec n Q v) i = v i) {i k : Nat}
    (hi : i < n) (hk : k < n) : xorSum n (fun j => P i j && Q j k) = (i == k) := by
  calc xorSum n (fun j => P i j && Q j k)
      = mulVec n P (mulVec n Q (· == k)) i := xorSum_congr fun j _ => by rw [mulVec_unit Q hk]
    _ = (i == k) := h _ i hi

/-! ## The plus shape (rules R221, R225) -/

/-- The cell whose column holds the 1 in the row of cell (r, c) of a grid operator (rule R221). -/
def gridCell (N : Nat) (op : GridOp) (r c : Nat) : Nat × Nat :=
  match op with
  | .ident => (r, c)
  | .hLeft => (r, (c + N - 1) % N)
  | .hRight => (r, (c + 1) % N)
  | .vUp => ((r + N - 1) % N, c)
  | .vDown => ((r + 1) % N, c)

/-- The index of a cell, r·N + c (rule R16). -/
def cellIndex (N : Nat) (x : Nat × Nat) : Nat := x.1 * N + x.2

/-- The five operators that add up to A. -/
def gridOps : List GridOp := [.ident, .hLeft, .hRight, .vUp, .vDown]

/-- The five cells of the plus shape around (r, c). -/
def plusCells (N r c : Nat) : List (Nat × Nat) := gridOps.map fun op => gridCell N op r c

theorem gridEntry_eq (N : Nat) (op : GridOp) (r c r' c' : Nat) :
    gridEntry N op r c r' c' = ((r', c') == gridCell N op r c) := by
  cases op <;> rfl

theorem gridCell_lt {N r c : Nat} (op : GridOp) (hr : r < N) (hc : c < N) :
    (gridCell N op r c).1 < N ∧ (gridCell N op r c).2 < N := by
  have hmod (a : Nat) : a % N < N := Nat.mod_lt _ (by omega)
  cases op with
  | ident => exact ⟨hr, hc⟩
  | hLeft | hRight => exact ⟨hr, hmod _⟩
  | vUp | vDown => exact ⟨hmod _, hc⟩

theorem cellIndex_gridCell_lt {N r c : Nat} (op : GridOp) (hr : r < N) (hc : c < N) :
    cellIndex N (gridCell N op r c) < N * N :=
  address_lt (gridCell_lt op hr hc).1 (gridCell_lt op hr hc).2

/-- Every index below N² is that of a cell. -/
theorem exists_cell {N p : Nat} (hp : p < N * N) : ∃ r c, r < N ∧ c < N ∧ r * N + c = p := by
  have hN : 0 < N := Nat.pos_of_mul_pos_left (Nat.zero_lt_of_lt hp)
  exact ⟨p / N, p % N, Nat.div_lt_of_lt_mul hp, Nat.mod_lt p hN, Nat.div_add_mod' p N⟩

/-- The row of a cell in a grid operator has its one 1 at the column of `gridCell`. -/
theorem gridMat_row {N r c : Nat} (op : GridOp) (hr : r < N) (hc : c < N) :
    ∀ j < N * N, gridMat N op (r * N + c) j = (j == cellIndex N (gridCell N op r c)) := by
  intro j hj
  obtain ⟨r', c', -, hc', rfl⟩ := exists_cell hj
  rw [gridMat_cell op hr hc hc', gridEntry_eq, Bool.eq_iff_iff, beq_iff_eq, beq_iff_eq, cellIndex,
    address_inj hc' (gridCell_lt op hr hc).2, Prod.ext_iff]

theorem plusMat_cell {N r c r' c' : Nat} (hr : r < N) (hc : c < N) (hc' : c' < N) :
    plusMat N (r * N + c) (r' * N + c') = plusEntry N r c r' c' := by
  simp only [plusMat, addMat, gridMat_cell _ hr hc hc', plusEntry]

/-- An entry of A is 1 where the column's cell is an odd number of times in the plus shape. -/
theorem plusEntry_eq (N r c r' c' : Nat) :
    plusEntry N r c r' c' = xorAll ((plusCells N r c).map ((r', c') == ·)) := by
  simp only [plusEntry, gridEntry_eq, xor_eq_xorAll]
  rfl

theorem plusMat_eq (N i j : Nat) : plusMat N i j = xorAll (gridOps.map fun op => gridMat N op i j) :=
  xor_eq_xorAll ..

theorem mulVec_gridMat {N r c : Nat} (op : GridOp) (v : GfVec) (hr : r < N) (hc : c < N) :
    mulVec (N * N) (gridMat N op) v (r * N + c) = v (cellIndex N (gridCell N op r c)) :=
  mulVec_of_row v (cellIndex_gridCell_lt op hr hc) (gridMat_row op hr hc)

/-- `A·x` at a cell is the XOR of x over the plus shape (rule R225). -/
theorem mulVec_plusMat {N r c : Nat} (v : GfVec) (hr : r < N) (hc : c < N) :
    mulVec (N * N) (plusMat N) v (r * N + c) = xorAll ((plusCells N r c).map fun x => v (cellIndex N x)) := by
  simp only [plusMat, mulVec_addMat, mulVec_gridMat _ v hr hc, xor_eq_xorAll]
  rfl

/-! ## Grids from N = 3 on (rule R234) -/

theorem mod_eq_indexBefore {N i : Nat} (hi : i < N) : (i + N - 1) % N = indexBefore N i := by
  have h := shiftLeft_entry (indexBefore N i) hi
  rw [shiftLeft, ← indexBefore, beq_self_eq_true, eq_comm, beq_iff_eq] at h
  exact h.symm

theorem mod_eq_indexAfter {N i : Nat} (hi : i < N) : (i + 1) % N = indexAfter N i := by
  have h := shiftRight_entry (indexAfter N i) hi
  rw [shiftRight, ← indexAfter, beq_self_eq_true, eq_comm, beq_iff_eq] at h
  exact h.symm

/-- From N = 3 on an index and its two cyclic neighbours are three indices. -/
theorem neighbours_distinct {N i : Nat} (h3 : 3 ≤ N) (hi : i < N) :
    (i + N - 1) % N ≠ i ∧ (i + 1) % N ≠ i ∧ (i + N - 1) % N ≠ (i + 1) % N := by
  rw [mod_eq_indexBefore hi, mod_eq_indexAfter hi, indexBefore, indexAfter, cyclic_pred hi, cyclic_succ hi]
  split <;> split <;> omega

theorem plusCells_nodup {N r c : Nat} (h3 : 3 ≤ N) (hr : r < N) (hc : c < N) : (plusCells N r c).Nodup := by
  obtain ⟨hup, hdown, hvertical⟩ := neighbours_distinct h3 hr
  obtain ⟨hleft, hright, hhorizontal⟩ := neighbours_distinct h3 hc
  simp [plusCells, gridOps, gridCell, hup.symm, hdown.symm, hvertical, hleft, hleft.symm, hright, hright.symm,
    hhorizontal]

theorem plusCells_lt {N r c : Nat} (hr : r < N) (hc : c < N) {x : Nat × Nat} (hx : x ∈ plusCells N r c) :
    x.1 < N ∧ x.2 < N := by
  obtain ⟨op, -, rfl⟩ := List.mem_map.1 hx
  exact gridCell_lt op hr hc

/-- From N = 3 on the ones of a row of A are at the five cells of the plus shape. -/
theorem plusMat_row_ones {N r c : Nat} (h3 : 3 ≤ N) (hr : r < N) (hc : c < N) :
    ((List.range (N * N)).filter (plusMat N (r * N + c))).Perm ((plusCells N r c).map (cellIndex N)) := by
  have hlt {x : Nat × Nat} (hx : x ∈ plusCells N r c) : x.1 < N ∧ x.2 < N := plusCells_lt hr hc hx
  have hindex : ((plusCells N r c).map (cellIndex N)).Nodup :=
    (plusCells_nodup h3 hr hc).map_on fun x hx y hy hxy =>
      Prod.ext_iff.2 ((address_inj (hlt hx).2 (hlt hy).2).1 hxy)
  have hone {r' c' : Nat} (hc' : c' < N) :
      plusMat N (r * N + c) (r' * N + c') = true ↔ (r', c') ∈ plusCells N r c := by
    rw [plusMat_cell hr hc hc', plusEntry_eq, xorAll_map_beq (plusCells_nodup h3 hr hc), List.contains_iff_mem]
  refine (List.perm_ext_iff_of_nodup (List.nodup_range.filter _) hindex).2 fun q => ?_
  rw [List.mem_filter, List.mem_range, List.mem_map]
  constructor
  · rintro ⟨hq, htrue⟩
    obtain ⟨r', c', -, hc', rfl⟩ := exists_cell hq
    exact ⟨(r', c'), (hone hc').1 htrue, rfl⟩
  · rintro ⟨⟨r', c'⟩, hx, rfl⟩
    exact ⟨address_lt (hlt hx).1 (hlt hx).2, (hone (hlt hx).2).2 hx⟩

/-! ## MAT after OPACC commands -/

/-- What an OPACC command XORs into element (i, j) of MAT (rule R222). -/
def quadrantEntry (N : Nat) (op : GridOp) (b : Quadrant) (i j : Nat) : Bool :=
  decide (rowOffset b (N * N) ≤ i ∧ i < rowOffset b (N * N) + N * N ∧
      colOffset b (N * N) ≤ j ∧ j < colOffset b (N * N) + N * N) &&
    gridMat N op (i - rowOffset b (N * N)) (j - colOffset b (N * N))

theorem execAll_cons_next {i : Instr} {s t : State} (rest : List Instr) (h : exec i s = .next t) :
    execAll (i :: rest) s = execAll rest t := by
  simp only [execAll, h]

/-- OPACC commands with an accepted N, one after the other: MAT is XORed with the entries of all of them. -/
theorem execAll_opacc {s : State} {N : Nat} (hsize : SizeIs N s) (ops : List (GridOp × Quadrant)) :
    ∃ t, execAll (ops.map fun p => opacc p.1 p.2) s = .next t ∧ t.rstN = s.rstN ∧ (s.busy = false → t.busy = false) ∧
      ∀ i j, j < s.cfg.dmax →
        matBit t i j = (matBit s i j ^^ xorAll (ops.map fun p => quadrantEntry N p.1 p.2 i j)) := by
  induction ops generalizing s with
  | nil => exact ⟨s, rfl, rfl, id, fun i j _ => (Bool.xor_false _).symm⟩
  | cons p ops ih =>
    obtain ⟨t, hexec, hrst, hidle, hmat⟩ := ih (s := complete .none (accumulateGrid p.1 p.2 s)) hsize
    refine ⟨t, ?_, hrst, fun _ => hidle rfl, fun i j hj => ?_⟩
    · rw [List.map_cons, execAll_cons_next _ (exec_opacc p.1 p.2 hsize), hexec]
    · have hacc : matBit (complete .none (accumulateGrid p.1 p.2 s)) i j =
          (matBit s i j ^^ quadrantEntry N p.1 p.2 i j) := matBit_accumulateGrid p.1 p.2 hsize hj
      rw [hmat i j hj, hacc, Bool.xor_assoc, List.map_cons, xorAll_cons]

/-- The seven OPACC commands of rule R233. -/
def buildOperands : List (GridOp × Quadrant) :=
  [(.ident, 0), (.hLeft, 0), (.hRight, 0), (.vUp, 0), (.vDown, 0), (.ident, 1), (.ident, 2)]

theorem quadrantEntry_zero (N : Nat) (op : GridOp) (i j : Nat) :
    quadrantEntry N op 0 i j = (decide (i < N * N ∧ j < N * N) && gridMat N op i j) := by
  simp [quadrantEntry, rowOffset, colOffset]

theorem quadrantEntry_one (N : Nat) (op : GridOp) (i j : Nat) :
    quadrantEntry N op 1 i j =
      (decide (i < N * N ∧ N * N ≤ j ∧ j < 2 * (N * N)) && gridMat N op i (j - N * N)) := by
  simp [quadrantEntry, rowOffset, colOffset, Nat.two_mul]

theorem quadrantEntry_two (N : Nat) (op : GridOp) (i j : Nat) :
    quadrantEntry N op 2 i j =
      (decide (N * N ≤ i ∧ i < 2 * (N * N) ∧ j < N * N) && gridMat N op (i - N * N) j) := by
  simp [quadrantEntry, rowOffset, colOffset, Nat.two_mul]

/-- The seven operators add up to T in its corner and to 0 elsewhere. -/
theorem xorAll_buildOperands (N i j : Nat) :
    xorAll (buildOperands.map fun p => quadrantEntry N p.1 p.2 i j) =
      (decide (i < 2 * (N * N)) && decide (j < 2 * (N * N)) && evolutionMat N i j) := by
  simp only [buildOperands, List.map_cons, List.map_nil, xorAll_cons, xorAll_nil, quadrantEntry_zero,
    quadrantEntry_one, quadrantEntry_two, evolutionMat, blockMat]
  by_cases hi : i < N * N <;> by_cases hj : j < N * N
  · simp [hi, hj, plusMat_eq, gridOps, show i < 2 * (N * N) by omega, show j < 2 * (N * N) by omega,
      show ¬ N * N ≤ i by omega, show ¬ N * N ≤ j by omega]
  · simp [hi, hj, show i < 2 * (N * N) by omega, show N * N ≤ j by omega, gridMat]
  · simp [hi, hj, show j < 2 * (N * N) by omega, show N * N ≤ i by omega, gridMat]
  · simp [hi, hj, zeroMat]

/-! ## MATCLR and BUILD -/

theorem matBit_matclr (s : State) (i j : Nat) : matBit (complete .none (writtenBy .matclr s)) i j = false := rfl

/-- BUILD with an accepted N completes with its writes (rule R232). -/
theorem exec_build {s : State} {N : Nat} (h : SizeIs N s) :
    exec .build s = .next (complete .none (writtenBy .build s)) :=
  exec_of_checks_pass (i := .build) (gridChecks_of_sizeIs h).2

/-- What BUILD writes with an accepted N: T(N) and its dimensions (rule R232). -/
theorem writtenBy_build {s : State} {N : Nat} (h : SizeIs N s) :
    writtenBy .build s = setDims (2 * (N * N)) (2 * (N * N)) (loadMat (2 * (N * N)) (evolutionMat N) s) := by
  obtain ⟨rfl, -⟩ := gridChecks_of_sizeIs h
  rfl

/-- MAT after BUILD with an accepted N: T(N) in its corner, 0 elsewhere (rule R232). -/
theorem matBit_build {s : State} {N i j : Nat} (h : SizeIs N s) (hj : j < s.cfg.dmax) :
    matBit (complete .none (writtenBy .build s)) i j =
      (decide (i < 2 * (N * N)) && decide (j < 2 * (N * N)) && evolutionMat N i j) := by
  rw [writtenBy_build h]
  exact matBit_loadMat (evolutionMat N) (quadrants_fit h) hj

/-! ## STEP -/

theorem stateLen_of_sizeIs {s : State} {N : Nat} (h : SizeIs N s) : stateLen s = 2 * (N * N) := by
  rw [stateLen, cellCount, (gridChecks_of_sizeIs h).1]

/-- STEP with an accepted N and fitting dimensions completes with its writes (rules R271, R273). -/
theorem exec_step {s : State} {N : Nat} {k : VNum} (h : SizeIs N s) (hdims : DimsAre (2 * (N * N)) k s) :
    exec (.step k) s = .next (complete .none (writtenBy (.step k) s)) := by
  obtain ⟨rfl, hpass⟩ := gridChecks_of_sizeIs h
  refine exec_of_checks_pass (firstError_eq_none.2 ?_)
  have hgrid := firstError_eq_none.1 hpass
  simp only [gridChecks, List.forall_mem_cons] at hgrid
  obtain ⟨hN, hcap, -⟩ := hgrid
  simp only [checksOf, List.forall_mem_cons]
  exact ⟨hN, hcap, checkDims_passes.2 hdims, List.forall_mem_nil _⟩

/-- The vector register that STEP leaves (rules R272, R273). -/
theorem vregBit_writtenBy_step (s : State) (k : VNum) (i : Nat) :
    vregBit (writtenBy (.step k) s) k i =
      (decide (i < stateLen s) && mulVec (stateLen s) (matBit s) (vregBit s k) i) := by
  calc vregBit (writtenBy (.step k) s) k i
      = vregBit (setVreg k (applyMat (stateLen s) (matBit s) (stateVector k s)) s) k i := rfl
    _ = listBit (applyMat (stateLen s) (matBit s) (stateVector k s)) i := by rw [vregBit_setVreg, if_pos rfl]
    _ = (decide (i < stateLen s) && mulVec (stateLen s) (matBit s) (listBit (stateVector k s)) i) :=
      listBit_applyMat ..
    _ = _ := by
      congr 1
      refine mulVec_congr (fun _ _ => rfl) fun j hj => ?_
      rw [stateVector, listBit_vectorList, decide_eq_true hj, Bool.true_and]

/-! ## The statements -/

/-- Settles O22: MATCLR has no checks, and the memory it leaves is the cleared one. -/
theorem matclrResult : Obligations.MatclrResult := by
  unfold Obligations.MatclrResult
  intro s
  exact ⟨_, exec_of_checks_pass (i := .matclr) rfl, rfl, matBit_matclr s⟩

/-- Settles O24: BUILD loads T(N), whose blocks are A, two identities and zero. -/
theorem buildResult : Obligations.BuildResult := by
  unfold Obligations.BuildResult
  intro s N hsize
  have hfit := quadrants_fit hsize
  have hmat {i j : Nat} (hi : i < 2 * (N * N)) (hj : j < 2 * (N * N)) :
      matBit (complete .none (writtenBy .build s)) i j = evolutionMat N i j := by
    rw [matBit_build hsize (by omega), decide_eq_true hi, decide_eq_true hj, Bool.true_and, Bool.true_and]
  refine ⟨_, exec_build hsize, ?_, fun r c r' c' hr hc hr' hc' => ?_, fun p q hp hq => ⟨?_, ?_, ?_⟩,
    fun i j _ hj hout => ?_⟩
  · rw [writtenBy_build hsize]
    rfl
  · have hp := address_lt hr hc
    have hq := address_lt hr' hc'
    rw [hmat (by omega) (by omega), evolutionMat, blockMat_upper_left _ _ _ _ hp hq, plusMat_cell hr hc hc']
  · rw [hmat (by omega) (by omega), evolutionMat, blockMat_upper_right _ _ _ _ hp, identityMat]
  · rw [hmat (by omega) (by omega), evolutionMat, blockMat_lower_left _ _ _ _ _ hq, identityMat]
  · rw [hmat (by omega) (by omega), evolutionMat, blockMat_lower_right, zeroMat]
  · rw [matBit_build hsize hj, ← Bool.decide_and, decide_eq_false (by omega), Bool.false_and]

/-- Settles O26: both commands XOR the same entry into an element. -/
theorem opaccIsItsOwnInverse : Obligations.OpaccIsItsOwnInverse := by
  unfold Obligations.OpaccIsItsOwnInverse
  intro s N op b hsize
  obtain ⟨t, hexec, -, -, hmat⟩ := execAll_opacc hsize [(op, b), (op, b)]
  refine ⟨t, hexec, fun i j _ hj => ?_⟩
  rw [hmat i j hj]
  simp

/-- Settles O27: the commands, in whatever order, XOR into the cleared MAT entries that add up to T. -/
theorem buildEqualsAccumulation : Obligations.BuildEqualsAccumulation := by
  unfold Obligations.BuildEqualsAccumulation
  intro s N order hsize hrst horder
  obtain ⟨ops, rfl, hops⟩ : ∃ ops : List (GridOp × Quadrant),
      order = ops.map (fun p => opacc p.1 p.2) ∧ ops.Perm buildOperands :=
    (congrFun₂ (List.eq_map_comp_perm fun p : GridOp × Quadrant => opacc p.1 p.2) order buildOperands).mpr horder
  have hclear : exec .matclr s = .next (complete .none (writtenBy .matclr s)) := exec_of_checks_pass rfl
  obtain ⟨u, hexec, hrst', hidle, hmat⟩ :=
    execAll_opacc (s := complete .none (writtenBy .matclr s)) hsize ops
  refine ⟨_, u, exec_build hsize, (execAll_cons_next _ hclear).trans hexec, ?_⟩
  have hv (w : Word) : hostWrite 0x020 w (hostWrite 0x01C w u) = { u with mrows := w, mcols := w } := by
    rw [hostWrite_idle 0x01C w (hrst'.trans hrst) (hidle rfl)]
    exact hostWrite_idle 0x020 w (hrst'.trans hrst) (hidle rfl)
  simp only [hv]
  have hdim : (writtenBy .build s).mrows = BitVec.ofNat 32 (2 * (N * N)) := by rw [writtenBy_build hsize]; rfl
  refine ⟨hdim.symm, hdim.symm, fun i j _ hj => ?_⟩
  calc matBit { u with mrows := _, mcols := _ } i j
      = xorAll (ops.map fun p => quadrantEntry N p.1 p.2 i j) := by
        refine (hmat i j hj).trans ?_
        rw [matBit_matclr, Bool.false_xor]
    _ = xorAll (buildOperands.map fun p => quadrantEntry N p.1 p.2 i j) := xorAll_perm (hops.map _)
    _ = _ := xorAll_buildOperands N i j
    _ = _ := (matBit_build hsize hj).symm

/-- Settles O29: N = 1 and N = 2 by evaluation, and from N = 3 on the five cells of the plus shape are distinct, so
none of their ones cancel. -/
theorem smallGrids : Obligations.SmallGrids := by
  unfold Obligations.SmallGrids
  refine ⟨by decide, by decide, by decide, by decide, fun N h3 => ⟨fun r hr c hc => plusCells_nodup h3 hr hc,
    fun p hp => ?_⟩⟩
  obtain ⟨r, c, hr, hc, rfl⟩ := exists_cell hp
  exact (plusMat_row_ones h3 hr hc).length_eq

/-- Settles O30, from the blocks of T. -/
theorem evolutionUpdateRule : Obligations.EvolutionUpdateRule := by
  unfold Obligations.EvolutionUpdateRule
  exact fun N v p hp => ⟨mulVec_evolutionMat_upper v hp, mulVec_evolutionMat_lower v hp⟩

/-- Settles O31: on every vector each of the two matrices undoes the other. -/
theorem evolutionIsReversible : Obligations.EvolutionIsReversible := by
  unfold Obligations.EvolutionIsReversible
  exact fun N _ i hi k hk => ⟨product_of_undoes (evolutionMat_reverseMat N) hi hk,
    product_of_undoes (reverseMat_evolutionMat N) hi hk⟩

/-- Settles O39: STEP applies T, whose update rule takes A, the XOR over the plus shape. -/
theorem stepOnTheBuiltOperator : Obligations.StepOnTheBuiltOperator := by
  unfold Obligations.StepOnTheBuiltOperator
  intro s N k hsize hdims _ hT
  have hnew {i : Nat} (hi : i < 2 * (N * N)) :
      vregBit (complete .none (writtenBy (.step k) s)) k i =
        mulVec (2 * (N * N)) (evolutionMat N) (vregBit s k) i := by
    refine (vregBit_writtenBy_step s k i).trans ?_
    rw [stateLen_of_sizeIs hsize, decide_eq_true hi, Bool.true_and]
    exact mulVec_congr (hT i hi) fun _ _ => rfl
  refine ⟨_, exec_step hsize hdims, fun r c hr hc => ?_⟩
  have hp := address_lt hr hc
  rw [hnew (by omega), hnew (by omega), mulVec_evolutionMat_lower _ hp, mulVec_evolutionMat_upper _ hp,
    mulVec_plusMat _ hr hc]
  refine ⟨rfl, ?_⟩
  simp only [plusCells, gridOps, List.map_cons, List.map_nil, xorAll_cons, xorAll_nil, Bool.xor_false, Bool.xor_assoc]
  rfl

end Sys2Proof.Machine

/-! Proofs of the statements of the family 44_codec: the codes of ENCODE read back, and what STEP and RUN leave in VREG
and HIST. -/

namespace Sys2Proof.Machine

open Sys2Proof

/-! ## Lists of bits that hold the first D elements of a vector -/

/-- The codes of a row, where the list holds the first 2M elements of a vector (rule R250). -/
theorem codesRow_code_of_listBit {M : Nat} {S : List Bool} {v : GfVec}
    (h : ∀ i, listBit S i = (decide (i < 2 * M) && v i)) (p : Nat) :
    (codesRow M S).code p = if p < M then pauliCode (v p) (v (M + p)) else 0 := by
  rw [codesRow_code]
  split
  · next hp => rw [h, h, decide_eq_true (by omega), decide_eq_true (by omega), Bool.true_and, Bool.true_and]
  · rfl

/-- `M^r·v` as the model's list of D bits and, element by element, as rule R277 writes it. -/
theorem listBit_applyTimes {D : Nat} (M : GfMat) {S : List Bool} {v : GfVec}
    (h : ∀ i, listBit S i = (decide (i < D) && v i)) (r i : Nat) :
    listBit (applyTimes D M r S) i = (decide (i < D) && powerVec D M v r i) := by
  induction r generalizing i with
  | zero => exact h i
  | succ r ih =>
    rw [applyTimes_succ, listBit_applyMat]
    congr 1
    exact mulVec_congr (fun _ _ => rfl) fun j hj => by rw [ih, decide_eq_true hj, Bool.true_and]

/-! ## The rows of RUN -/

/-- The rows RUN writes, row 0 included: row r holds the codes of the state after r applications (rules R274, R277). -/
theorem runLoop_writeCodes_getElem? {D K T r : Nat} {M : GfMat} {S : List Bool} {rows : List (Memory Code)}
    (hr : r ≤ T) (hlen : r < rows.length) :
    (runLoop D K M T 1 S (writeCodes 0 K S rows)).2[r]? = some (codesRow K (applyTimes D M r S)) := by
  rw [runLoop_getElem?, writeCodes_length]
  cases r with
  | zero => rw [if_neg (by omega), writeCodes_getElem?, if_pos ⟨rfl, hlen⟩]; rfl
  | succ r => rw [if_pos (by omega), Nat.add_sub_cancel]

/-! ## RUN with operands that fit -/

/-- An accepted T is the model's step count (rule R270). -/
theorem stepCount_of_stepsAre {s : State} {T : Nat} (h : StepsAre T s) : stepCount s = T := by
  rw [stepCount, h.1, Int.toNat_natCast]

/-- RUN with accepted N and T and fitting dimensions completes with its writes (rules R270, R271, R274). -/
theorem exec_run {s : State} {N T : Nat} {k : VNum} (hsize : SizeIs N s) (hsteps : StepsAre T s)
    (hdims : DimsAre (2 * (N * N)) k s) : exec (.run k) s = .next (complete .none (writtenBy (.run k) s)) := by
  have hD := checkDims_passes.2 ((stateLen_of_sizeIs hsize).symm ▸ hdims)
  obtain ⟨hN, hlow, hcap⟩ := hsize
  obtain ⟨hT, hdepth⟩ := hsteps
  refine exec_of_checks_pass (firstError_eq_none.2 ?_)
  simp only [checksOf, List.forall_mem_cons]
  exact ⟨checkSizeN_passes.2 (by omega), checkSizeT_passes.2 (by omega), checkCapN_passes.2 (by omega),
    checkCapT_passes.2 (by omega), hD, List.forall_mem_nil _⟩

/-- The vector register that RUN leaves (rules R274, R277). -/
theorem vregBit_writtenBy_run (s : State) (k : VNum) (i : Nat) :
    vregBit (writtenBy (.run k) s) k i =
      (decide (i < stateLen s) && powerVec (stateLen s) (matBit s) (vregBit s k) (stepCount s) i) := by
  refine (vregBit_setVreg s k k _ i).trans ?_
  rw [if_pos rfl, runLoop_state]
  exact listBit_applyTimes (matBit s) (listBit_vectorList s k (stateLen s)) (stepCount s) i

/-- The codes that RUN leaves in its rows (rules R250, R274, R277). -/
theorem histCode_writtenBy_run {s : State} {r : Nat} (k : VNum) (hr : r ≤ stepCount s) (hlen : r < s.hist.length)
    (p : Nat) :
    histCode (writtenBy (.run k) s) r p =
      let S := powerVec (stateLen s) (matBit s) (vregBit s k) r
      if p < cellCount s then pauliCode (S p) (S (cellCount s + p)) else 0 :=
  (histCode_of_getElem? (runLoop_writeCodes_getElem? hr hlen) p).trans
    (codesRow_code_of_listBit (listBit_applyTimes (matBit s) (listBit_vectorList s k (stateLen s)) r) p)

/-- The codes that STEP leaves in row 0: those of the vector register it leaves (rules R250, R273). -/
theorem histCode_writtenBy_step {s : State} (k : VNum) (hlen : 1 ≤ s.hist.length) (p : Nat) :
    histCode (writtenBy (.step k) s) 0 p =
      let S := vregBit (writtenBy (.step k) s) k
      if p < cellCount s then pauliCode (S p) (S (cellCount s + p)) else 0 := by
  have hvreg (i : Nat) : vregBit (writtenBy (.step k) s) k i =
      listBit (applyMat (stateLen s) (matBit s) (stateVector k s)) i :=
    (vregBit_setVreg s k k _ i).trans (if_pos rfl)
  have hrow : (writtenBy (.step k) s).hist[0]? =
      some (codesRow (cellCount s) (applyMat (stateLen s) (matBit s) (stateVector k s))) :=
    (writeCodes_getElem? ..).trans (if_pos ⟨rfl, hlen⟩)
  simp only [histCode_of_getElem? hrow, codesRow_code, hvreg]

/-! ## The statements -/

/-- Settles O33: O32 gives the code as the number x + 2·z, so it is `code(x, z)`, whose bits are x and z. -/
theorem encodeRoundTrip : Obligations.EncodeRoundTrip := by
  unfold Obligations.EncodeRoundTrip
  intro s k M p hlen hfit hrow hp
  obtain ⟨t, hexec, -, -, hcode, -⟩ := encodeResult s k M hlen hfit hrow
  have hpauli : histCode t 0 p = pauliCode (vregBit s k p) (vregBit s k (M + p)) :=
    BitVec.eq_of_toNat_eq (by rw [hcode, if_pos hp, pauliCode_toNat])
  exact ⟨t, hexec, hpauli ▸ pauliCode_bits _ _⟩

/-- Settles O34: STEP's checks pass, and it writes VREG[k], row 0 and the extent alone. -/
theorem stepResult : Obligations.StepResult := by
  unfold Obligations.StepResult
  intro s N k hsize hdims hrow
  have hexec := exec_step hsize hdims
  obtain ⟨rfl, -⟩ := gridChecks_of_sizeIs hsize
  exact ⟨_, hexec, rfl, vregBit_writtenBy_step s k, fun _ => Quad.get_set_of_ne _ _, writeCodes_length ..,
    histCode_writtenBy_step k hrow, fun _ => writeCodes_zero_getElem?⟩

/-- Settles O35: RUN's checks pass, every row up to T lies in HIST, and the loop leaves the rows above T. -/
theorem runResult : Obligations.RunResult := by
  unfold Obligations.RunResult
  intro s N T k hsize hsteps hdims hrows
  have hexec := exec_run hsize hsteps hdims
  have hdepth := hsteps.2
  obtain rfl := stepCount_of_stepsAre hsteps
  obtain ⟨rfl, -⟩ := gridChecks_of_sizeIs hsize
  exact ⟨_, hexec, rfl, vregBit_writtenBy_run s k, fun _ => Quad.get_set_of_ne _ _, runLoop_writeCodes_length ..,
    fun _ hr => histCode_writtenBy_run k hr (by omega), fun _ => runLoop_getElem?_above⟩

end Sys2Proof.Machine

/-! Proofs of the statements of the family 45_driver: STEP is one iteration of RUN, and a second RUN continues where the
first ended. -/

namespace Sys2Proof.Machine

open Sys2Proof

/-! ## Applications of the operator, and the register that holds the state -/

/-- `M^(a+b)·S = M^b·(M^a·S)`. -/
theorem applyTimes_add (D : Nat) (M : GfMat) (a b : Nat) (S : List Bool) :
    applyTimes D M (a + b) S = applyTimes D M b (applyTimes D M a S) := by
  induction b with
  | zero => rfl
  | succ b ih => rw [← Nat.add_assoc, applyTimes_succ, applyTimes_succ, ih]

theorem Quad.set_set {α : Type} (q : Quad α) (k : VNum) (x y : α) : (q.set k x).set k y = q.set k y := by
  unfold Quad.set
  split_ifs <;> rfl

theorem vregBit_congr {s t : State} (h : s.vreg = t.vreg) (k : VNum) (i : Nat) : vregBit s k i = vregBit t k i :=
  congrArg (fun q : Quad (Memory Bool) => (q.get k).bit i) h

theorem vectorList_congr {s t : State} (h : s.vreg = t.vreg) (k : VNum) (n : Nat) :
    vectorList s k n = vectorList t k n :=
  List.map_congr_left fun i _ => vregBit_congr h k i

/-- The list written to a vector register reads back as that list. -/
theorem vectorList_setVreg (s : State) (k : VNum) (y : List Bool) : vectorList (setVreg k y s) k y.length = y := by
  refine List.ext_getElem (by simp) fun i _ hi => ?_
  simp [vectorList, vregBit_setVreg, listBit, hi]

/-- The state that RUN starts from has D bits. -/
@[simp] theorem stateVector_length (k : VNum) (s : State) : (stateVector k s).length = stateLen s :=
  vectorList_length s k (stateLen s)

/-! ## What STEP and RUN write, row by row -/

/-- The row STEP writes: the codes of one application of the operator (rule R273). -/
theorem hist_writtenBy_step {s : State} (k : VNum) (hlen : 1 ≤ s.hist.length) :
    (writtenBy (.step k) s).hist[0]? =
      some (codesRow (cellCount s) (applyMat (stateLen s) (matBit s) (stateVector k s))) :=
  (writeCodes_getElem? ..).trans (if_pos ⟨rfl, hlen⟩)

/-- The rows RUN writes: row r holds the codes of r applications of the operator (rule R274). -/
theorem hist_writtenBy_run {s : State} {r : Nat} (k : VNum) (hr : r ≤ stepCount s) (hlen : r < s.hist.length) :
    (writtenBy (.run k) s).hist[r]? =
      some (codesRow (cellCount s) (applyTimes (stateLen s) (matBit s) r (stateVector k s))) :=
  runLoop_writeCodes_getElem? hr hlen

/-- What RUN writes to VREG: T applications of the operator in VREG[k] (rule R274). -/
theorem vreg_writtenBy_run (s : State) (k : VNum) :
    (writtenBy (.run k) s).vreg =
      (setVreg k (applyTimes (stateLen s) (matBit s) (stepCount s) (stateVector k s)) s).vreg :=
  congrArg (fun y => (setVreg k y s).vreg) (runLoop_state ..)

/-- The state that a command after RUN reads from VREG[k] (rule R274). -/
theorem stateVector_writtenBy_run (s : State) (k : VNum) :
    stateVector k (writtenBy (.run k) s) = applyTimes (stateLen s) (matBit s) (stepCount s) (stateVector k s) := by
  have hback := vectorList_setVreg s k (applyTimes (stateLen s) (matBit s) (stepCount s) (stateVector k s))
  rw [applyTimes_length _ _ (stateVector_length k s)] at hback
  exact (vectorList_congr (vreg_writtenBy_run s k) k _).trans hback

/-! ## A RUN after a RUN -/

/-- What two RUNs write to VREG, TREG rewritten between them: as many applications as both have steps (rule R274). -/
theorem vreg_writtenBy_run_run (s : State) (k : VNum) (w : Word) :
    let t := { complete .none (writtenBy (.run k) s) with treg := w }
    (writtenBy (.run k) t).vreg =
      (setVreg k (applyTimes (stateLen s) (matBit s) (stepCount s + stepCount t) (stateVector k s)) s).vreg := by
  intro t
  calc (writtenBy (.run k) t).vreg
      = (setVreg k (applyTimes (stateLen s) (matBit s) (stepCount t) (stateVector k (writtenBy (.run k) s))) t).vreg :=
        vreg_writtenBy_run t k
    _ = (setVreg k (applyTimes (stateLen s) (matBit s) (stepCount s + stepCount t) (stateVector k s)) t).vreg := by
        rw [stateVector_writtenBy_run, applyTimes_add]
    _ = _ := Quad.set_set ..

/-- Row 0 of a RUN after a RUN holds the same codes as the last row of the first (rule R274). -/
theorem histCode_writtenBy_run_run {s : State} (k : VNum) (w : Word) (hlen : stepCount s < s.hist.length) (p : Nat) :
    histCode (writtenBy (.run k) { complete .none (writtenBy (.run k) s) with treg := w }) 0 p =
      histCode (writtenBy (.run k) s) (stepCount s) p := by
  have hlast := hist_writtenBy_run k (Nat.le_refl (stepCount s)) hlen
  have hzero := hist_writtenBy_run (s := { complete .none (writtenBy (.run k) s) with treg := w }) k (Nat.zero_le _)
    (Nat.zero_lt_of_lt ((runLoop_writeCodes_length ..).symm ▸ hlen))
  rw [histCode_of_getElem? hlast, histCode_of_getElem? hzero, ← stateVector_writtenBy_run]
  rfl

/-- A number of steps below HDEPTH, written to TREG, is accepted (rules R10, R270). -/
theorem stepsAre_ofNat {s : State} {T : Nat} (hok : s.cfg.ok) (hT : T + 1 ≤ s.cfg.hdepth) :
    StepsAre T { s with treg := BitVec.ofNat 32 T } := by
  obtain ⟨-, -, -, hdepth⟩ := hok
  exact ⟨toInt_ofNat_small (by omega), hT⟩

/-! ## The statements -/

/-- Settles O37: both leave one application of the operator, and RUN's row 1 holds its codes. -/
theorem stepIsOneIterationOfRun : Obligations.StepIsOneIterationOfRun := by
  unfold Obligations.StepIsOneIterationOfRun
  intro s N k hsize hdims hdepth hrows
  have hone : StepsAre 1 { s with treg := 1 } := ⟨rfl, hdepth⟩
  have hcount := stepCount_of_stepsAre hone
  have hvreg := vreg_writtenBy_run { s with treg := 1 } k
  rw [hcount] at hvreg
  have hrow := hist_writtenBy_run k hcount.ge (show 1 < s.hist.length by omega)
  exact ⟨_, _, exec_step hsize hdims, exec_run hsize hone hdims, hvreg.symm,
    (hist_writtenBy_step k (by omega)).trans hrow.symm⟩

/-- Settles O38: the second RUN starts from the state the first left, T applications of the operator, whose codes are
the first's row T and the second's row 0. -/
theorem runContinues : Obligations.RunContinues := by
  unfold Obligations.RunContinues
  intro s N T T' k hsize hdims hok hdepth hrows
  have hfirst : StepsAre T { s with treg := BitVec.ofNat 32 T } := stepsAre_ofNat hok (by omega)
  have hboth : StepsAre (T + T') { s with treg := BitVec.ofNat 32 (T + T') } := stepsAre_ofNat hok hdepth
  have hsecond : StepsAre T'
      { complete .none (writtenBy (.run k) { s with treg := BitVec.ofNat 32 T }) with treg := BitVec.ofNat 32 T' } :=
    stepsAre_ofNat hok (show T' + 1 ≤ s.cfg.hdepth by omega)
  have hT := stepCount_of_stepsAre hfirst
  have htwo := vreg_writtenBy_run_run { s with treg := BitVec.ofNat 32 T } k (BitVec.ofNat 32 T')
  have hone := vreg_writtenBy_run { s with treg := BitVec.ofNat 32 (T + T') } k
  simp only [hT, stepCount_of_stepsAre hsecond] at htwo
  rw [stepCount_of_stepsAre hboth] at hone
  have hlen := hT.trans_lt (show T < s.hist.length by omega)
  exact ⟨_, _, _, exec_run hsize hfirst hdims, exec_run hsize hsecond hdims, exec_run hsize hboth hdims,
    vregBit_congr (htwo.trans hone.symm),
    fun p => (histCode_writtenBy_run_run k _ hlen p).trans (congrArg (histCode _ · p) hT)⟩

end Sys2Proof.Machine

/-! Proofs of the statements of the family 60_exceptions: what an illegal word does, and the level of irq. -/

namespace Sys2Proof.Machine

open Sys2Proof

/-- A word that is no command's decodes to none (rules R129, R131). -/
theorem decode_eq_none_of_not_wordWf {w : Word} (h : wordWf w = false) : decode w = none := by
  exact Option.not_isSome_iff_eq_none.1 (by rw [decodesExactlyTheWellFormedWords w, h]; exact Bool.false_ne_true)

/-- Completion raises DONE, so irq is then IE, whatever the code (rule R311). -/
theorem irq_complete (code : ErrCode) (s : State) : irq (complete code s) = s.ie := Bool.true_and _

theorem writtenBy_ie (i : Instr) (s : State) : (writtenBy i s).ie = s.ie := by
  rw [writtenBy_untouched]

/-- After a command, with or without an error, irq is IE (rule R311). -/
theorem irq_of_exec {i : Instr} {s t : State} (hexec : exec i s = .next t) : irq t = s.ie := by
  obtain ⟨-, rfl⟩ | ⟨code, rfl⟩ := exec_next_cases hexec
  · rw [irq_complete, writtenBy_ie]
  · exact irq_complete code s

/-! ## The statements -/

/-- Settles O7: the word decodes to none, and completion with ILLEGAL is the whole of the engine step. -/
theorem illegalWordsComplete : Obligations.IllegalWordsComplete := by
  unfold Obligations.IllegalWordsComplete
  intro s hwf
  exact engineStep_of_decode_none (decode_eq_none_of_not_wordWf hwf)

/-- Settles O54: completion sets DONE, an issue and an acknowledge clear it, and a write of CTRL moves IE alone. -/
theorem interruptLevel : Obligations.InterruptLevel := by
  unfold Obligations.InterruptLevel
  intro s
  refine ⟨rfl, fun _ _ => irq_of_exec, fun hrst => ⟨fun v hidle => ?_, fun v hack => ?_, fun v => ?_⟩⟩
  · rw [hostWrite_cmd v hrst hidle rfl]
    rfl
  · have hcleared : (hostWrite 0x00C v s).done = false := by
      rw [statusWriteOneToClear s v hrst, if_pos hack]
    rw [irq, hcleared, Bool.false_and]
  · obtain ⟨⟨hctrl, -⟩, -⟩ := ctrlAndVselWrites s v hrst
    rw [hctrl]
    exact ⟨rfl, rfl⟩

end Sys2Proof.Machine

/-! Proofs of the statements of the family 70_reset_and_hazards: what a write does while a command runs, and the values
right after reset. -/

namespace Sys2Proof.Machine

open Sys2Proof

/-! ## Writes while a command runs (rules R91, R349) -/

/-- While a command runs, a write outside CTRL and STATUS is ignored and sets OVR (rule R91). -/
theorem hostWrite_ignored_busy {s : State} {a : Offset} (v : Word) (hrst : s.rstN = true) (hbusy : s.busy = true)
    (hout : ¬ ctrlOrStatus a) : hostWrite a v s = { s with ovr := true } := by
  have hwrite : ¬ writableBusy (regAt a) = true := fun h => hout ((writableBusy_regAt a).1 h)
  simp [hostWrite, hrst, hbusy, hwrite]

/-- With OVR set a command does the same and leaves OVR set (rule R56). -/
theorem exec_ovr (i : Instr) (s : State) :
    ∃ t, exec i s = .next t ∧ exec i { s with ovr := true } = .next { t with ovr := true } := by
  obtain ⟨t, hexec, hset⟩ := noCommandReadsAFlag i s s.done true s.range s.errcode
  obtain ⟨-, hrange⟩ := exec_flags hexec
  exact ⟨t, hexec, hset.trans (by rw [← hrange])⟩

/-- With OVR set the engine step does the same and leaves OVR set, whatever the word in PEND. -/
theorem engineStep_ovr (s : State) :
    ∃ t, engineStep s = .next t ∧ engineStep { s with ovr := true } = .next { t with ovr := true } := by
  cases hdecode : decode s.pend with
  | none =>
    exact ⟨_, engineStep_of_decode_none hdecode, engineStep_of_decode_none (s := { s with ovr := true }) hdecode⟩
  | some i =>
    rw [engineStep_of_decode_some hdecode, engineStep_of_decode_some (s := { s with ovr := true }) hdecode]
    exact exec_ovr i s

/-! ## Commands that read N (rules R167, R344) -/

/-- A command that checks N before all else completes with SIZE where N is not positive (rules R167, R308). -/
theorem errcode_of_size_fails {i : Instr} {s t : State} {rest : List (Bool × ErrCode)}
    (hchecks : checksOf i s = checkSizeN s :: rest) (hN : s.nreg.toInt ≤ 0) (hexec : exec i s = .next t) :
    t.errcode = 2 := by
  have hfirst : firstError (checksOf i s) = some .size := by
    rw [hchecks, checkSizeN, firstError_cons, if_pos (decide_eq_true hN)]
  rw [exec_eq_attempt, attempt_raise _ _ hfirst] at hexec
  obtain rfl := Host.Outcome.next.inj hexec
  rfl

/-- Every command that reads N checks it before all else (rule R308). -/
theorem checksOf_reads_size {i : Instr} (s : State)
    (hreads : i = .shiftgenL ∨ i = .shiftgenR ∨ (∃ op b, i = opacc op b) ∨ i = .build ∨ (∃ k, i = .step k) ∨
      ∃ k, i = .run k) : ∃ rest, checksOf i s = checkSizeN s :: rest := by
  obtain rfl | rfl | ⟨op, b, rfl⟩ | rfl | ⟨k, rfl⟩ | ⟨k, rfl⟩ := hreads
  · exact ⟨_, rfl⟩
  · exact ⟨_, rfl⟩
  · exact ⟨_, checksOf_opacc op b s⟩
  · exact ⟨_, rfl⟩
  · exact ⟨_, rfl⟩
  · exact ⟨_, rfl⟩

/-! ## VLEN after reset -/

theorem vlenOf_resetOf (c : Config) (n : Nat) (k : VNum) : vlenOf (State.resetOf c n) k = 0 := by
  simp [vlenOf, State.resetOf, Quad.get]

/-! ## The statements -/

/-- Settles O15: the ignored write leaves the state but for OVR, which no engine step reads or changes. -/
theorem busyWritesOnlySetOvr : Obligations.BusyWritesOnlySetOvr := by
  unfold Obligations.BusyWritesOnlySetOvr
  intro s a v hrst hbusy hout
  rw [hostWrite_ignored_busy v hrst hbusy hout]
  exact ⟨rfl, engineStep_ovr s⟩

/-- Settles O56: the values are those of `resetOf`, no input and no command is there to run, and N = 0 fails the first
check of every command that reads N. -/
theorem resetValues : Obligations.ResetValues := by
  unfold Obligations.ResetValues
  intro c n s
  refine ⟨⟨rfl, rfl, rfl, rfl, rfl, rfl, rfl, rfl, rfl, rfl, rfl, rfl, rfl, rfl, rfl, rfl, vlenOf_resetOf c n, rfl, rfl,
    rfl, rfl⟩, rfl, fun i t hreads hexec => ?_⟩
  obtain ⟨rest, hchecks⟩ := checksOf_reads_size s hreads
  exact errcode_of_size_fails hchecks (by decide : (0 : Word).toInt ≤ 0) hexec

end Sys2Proof.Machine
